-- ==== Sys2Proof/Word.lean ====
section
/-!
DEFINITION. The scalar and sequence types of the core: 32-bit words, octets, octet sequences, bit sequences
(00_scope.md R11 to R13).
-/

namespace Sys2Proof

/-- A 32-bit scalar: `CMD`, `OPA`, `RES0`, `RES1` (10_state.md R20). -/
abbrev Word := BitVec 32

/-- An octet, a natural below 256 (00_scope.md R13). -/
abbrev Byte := BitVec 8

/-- `Bytes`: a finite sequence of octets, first octet first (00_scope.md R13). -/
abbrev Bytes := List Byte

/-- `Bits`: a finite sequence of bits in transmission order, first bit sent first (00_scope.md R12, R13). -/
abbrev Bits := List Bool

end Sys2Proof
end

