-- ==== Sys2Proof/Config.lean ====
section
/-!
DEFINITION. What an instance of the core fixes (the eight instance parameters of 00_scope.md R9), the names its tables
are written in (the coding schemes of 40_scheme_table.md R80), the Viterbi scratch, and the free values.
-/

namespace Sys2Proof

/-- Rates of the CCSDS convolutional schemes, in the source's listing order (40_scheme_table.md R80). -/
inductive ConvRate where
  | r12 | r23 | r34 | r56 | r78
  deriving DecidableEq, Repr

/-- The two CCSDS Reed-Solomon codes (40_scheme_table.md R80). -/
inductive RsCode where
  | rs255k239 | rs255k223
  deriving DecidableEq, Repr

/-- Reed-Solomon interleaving levels (40_scheme_table.md R80). -/
inductive Interleaving where
  | i1 | i2 | i3 | i4 | i5 | i8
  deriving DecidableEq, Repr

/-- CCSDS Turbo block sizes (40_scheme_table.md R80). -/
inductive TurboBlock where
  | k1784 | k3568 | k7136 | k8920
  deriving DecidableEq, Repr

/-- CCSDS Turbo rates (40_scheme_table.md R80). -/
inductive TurboRate where
  | r12 | r13 | r14 | r16
  deriving DecidableEq, Repr

/-- CCSDS Orange-Book LDPC codeword lengths (40_scheme_table.md R80). -/
inductive OrangeLength where
  | n1280 | n1536 | n2048
  deriving DecidableEq, Repr

/-- IEEE 802.11n QC-LDPC codeword lengths (40_scheme_table.md R80). -/
inductive QcLength where
  | n648 | n1296 | n1944
  deriving DecidableEq, Repr

/-- IEEE 802.11n QC-LDPC rates (40_scheme_table.md R80). -/
inductive QcRate where
  | r12 | r23 | r34 | r56
  deriving DecidableEq, Repr

/-- A coding scheme: one of the 49 rows of the scheme table (40_scheme_table.md R80, R83). -/
inductive Scheme where
  | conv (r : ConvRate)
  | reedSolomon (c : RsCode) (i : Interleaving)
  | turbo (k : TurboBlock) (r : TurboRate)
  | orangeBook (n : OrangeLength)
  | qcLdpc (n : QcLength) (r : QcRate)
  | noFec
  deriving DecidableEq, Repr

/-- Whether the stand-alone encoder appends K-1 zero bits (43_convolutional.md R134). -/
inductive ConvTail where
  | none | zero6
  deriving DecidableEq, Repr

/-- Where the Viterbi traceback starts (43_convolutional.md R136). -/
inductive TbStart where
  | zero | minMetric
  deriving DecidableEq, Repr

/-- Which end of a generator polynomial taps the current input bit (43_convolutional.md R131). -/
inductive PolyOrder where
  | msbCurrent | lsbCurrent
  deriving DecidableEq, Repr

/-- The eight instance parameters (00_scope.md R9). `none` in the last two is `UNBOUNDED`. They are fixed at reset and
no command writes them (70_reset_and_hazards.md R211). -/
structure Params where
  /-- `CMAX`, in bits (40_scheme_table.md R84). -/
  cmax : Nat
  /-- `CONV_TAIL` (43_convolutional.md R134). -/
  convTail : ConvTail
  /-- `TB_START` (43_convolutional.md R136). -/
  tbStart : TbStart
  /-- `POLY_ORDER` (43_convolutional.md R131). -/
  polyOrder : PolyOrder
  /-- `GOLAY_B`: the rows `B_0 .. B_11` of the parity matrix, column 0 in bit 11 (42_golay.md R110). -/
  golayB : List (BitVec 12)
  /-- `EC_CODE`: the wire code of each scheme, in the order of the scheme table (40_scheme_table.md R80). -/
  ecCode : List (BitVec 6)
  /-- `REASM_CTX_MAX` (45_mpdu_framer.md R178). -/
  reasmCtxMax : Option Nat
  /-- `IO_MAX`, in octets (60_exceptions.md R192). -/
  ioMax : Option Nat
  deriving DecidableEq, Repr

/-- A path metric: a natural, or `INF` (00_scope.md R14). -/
inductive Metric where
  | fin (n : Nat)
  | inf
  deriving DecidableEq, Repr, Inhabited

/-- The Viterbi scratch: two path-metric arrays of 64 entries and one traceback trellis, a row of 64 predecessor
states for each received pair (10_state.md R29, 43_convolutional.md R135). -/
structure VitScratch where
  pm : Vector Metric 64
  npm : Vector Metric 64
  pred : List (Vector (BitVec 6) 64)
  deriving DecidableEq, Repr, Inhabited

/-- FREE VALUE (log 4): the contents of the Viterbi scratch after a decode, numbered by `State.freeIx`. 10_state.md R29:
"Its contents between commands are unspecified and no rule reads them". -/
opaque Config.scratchAfter : Nat → VitScratch

/-- FREE VALUE (log 16): what a result register holds when the count a rule writes to it does not fit its 32 bits, a
function of the count. The rules of CONV_ENC and VIT_DEC write an unbounded count and state no result there. -/
opaque Config.countTooWide : Nat → Word

end Sys2Proof
end

