-- ==== Sys2Proof/Syntax.lean ====
section
/-!
DEFINITION. The twenty commands of the opcode map (30_encoding.md R66), one constructor per row of
spec/opcode_table.json. A command carries the `CMD` fields its row uses, each of the width R60 gives it, so every term
is a command that the 32-bit format can hold; `OPA` and `IN` are registers of the state, not part of the command.
-/

namespace Sys2Proof

inductive Instr where
  /-- GOLAY_ENC, 42_golay.md R114. -/
  | golayEnc
  /-- GOLAY_DEC, 42_golay.md R115. -/
  | golayDec
  /-- GOLAY3_ENC, 42_golay.md R118. -/
  | golay3Enc
  /-- GOLAY3_DEC, 42_golay.md R119. -/
  | golay3Dec
  /-- CONV_INIT, 43_convolutional.md R130. -/
  | convInit (ec : BitVec 6)
  /-- CONV_ENC, 43_convolutional.md R133. -/
  | convEnc
  /-- VIT_DEC, 43_convolutional.md R137. -/
  | vitDec
  /-- PPDU_REPACK, 41_ppdu.md R102: source and destination tags, the raw bit counts (30_encoding.md R62). -/
  | ppduRepack (st dt : BitVec 4)
  /-- SCHEME_VALID, 40_scheme_table.md R88. -/
  | schemeValid
  /-- SCHEME_RATE, 40_scheme_table.md R89. -/
  | schemeRate (ec : BitVec 6)
  /-- SCHEME_CW_BITS, 40_scheme_table.md R90. -/
  | schemeCwBits (ec : BitVec 6)
  /-- SCHEME_MSG_BITS, 40_scheme_table.md R91. -/
  | schemeMsgBits (ec : BitVec 6)
  /-- SCHEME_NUM_FRAGS, 40_scheme_table.md R92. -/
  | schemeNumFrags (ec : BitVec 6)
  /-- HDR_ENC, 44_mpdu_header.md R153. -/
  | hdrEnc (ec : BitVec 6) (rf : BitVec 3) (df1 : Bool)
  /-- HDR_DEC, 44_mpdu_header.md R154. -/
  | hdrDec (df1 : Bool)
  /-- FRAME_COUNT, 45_mpdu_framer.md R167. -/
  | frameCount (ec : BitVec 6)
  /-- TX_PACKET, 45_mpdu_framer.md R170. -/
  | txPacket (ec : BitVec 6) (rf : BitVec 3) (df1 : Bool)
  /-- RX_FRAME, 45_mpdu_framer.md R172. -/
  | rxFrame (df1 : Bool)
  /-- RX_DROP, 45_mpdu_framer.md R179. -/
  | rxDrop (ec : BitVec 6)
  /-- RX_FLUSH, 45_mpdu_framer.md R180. -/
  | rxFlush
  deriving DecidableEq, Repr

end Sys2Proof
end

