-- ==== Sys2Proof/WellFormed.lean ====
section
/-!
DEFINITION. Which command words are well formed, straight from the opcode map of 30_encoding.md R66: a word is well
formed when it selects a row, that is when it agrees with the row's `match` on the bits of the row's `mask`. This is the
table's own description; the decoder (Decode.lean) is written from the three checks of R63, and the two are compared in
the statements. A term of `Instr` needs no check of its own: its fields have the widths of R60 as their types.
-/

namespace Sys2Proof

/-- A row of the opcode map: a word `w` selects it when `(w AND mask) = match` (30_encoding.md R66). -/
structure OpcodeRow where
  mnemonic : String
  bits : Word
  mask : Word
  deriving DecidableEq, Repr

/-- 30_encoding.md R66: "a word `w` selects the row when `(w AND mask) = match`". -/
def OpcodeRow.selects (r : OpcodeRow) (w : Word) : Bool := w &&& r.mask == r.bits

/-- The opcode map of 30_encoding.md R66. -/
def opcodeTable : List OpcodeRow :=
  [ ⟨"GOLAY_ENC", 0x00000001, 0xFFFFFFFF⟩,
    ⟨"GOLAY_DEC", 0x00000002, 0xFFFFFFFF⟩,
    ⟨"GOLAY3_ENC", 0x00000003, 0xFFFFFFFF⟩,
    ⟨"GOLAY3_DEC", 0x00000004, 0xFFFFFFFF⟩,
    ⟨"CONV_INIT", 0x00000010, 0xFFFFC0FF⟩,
    ⟨"CONV_ENC", 0x00000011, 0xFFFFFFFF⟩,
    ⟨"VIT_DEC", 0x00000012, 0xFFFFFFFF⟩,
    ⟨"PPDU_REPACK", 0x00000020, 0xFC03FFFF⟩,
    ⟨"SCHEME_VALID", 0x00000030, 0xFFFFFFFF⟩,
    ⟨"SCHEME_RATE", 0x00000031, 0xFFFFC0FF⟩,
    ⟨"SCHEME_CW_BITS", 0x00000032, 0xFFFFC0FF⟩,
    ⟨"SCHEME_MSG_BITS", 0x00000033, 0xFFFFC0FF⟩,
    ⟨"SCHEME_NUM_FRAGS", 0x00000034, 0xFFFFC0FF⟩,
    ⟨"HDR_ENC", 0x00000040, 0xFFFC00FF⟩,
    ⟨"HDR_DEC", 0x00000041, 0xFFFDFFFF⟩,
    ⟨"FRAME_COUNT", 0x00000050, 0xFFFFC0FF⟩,
    ⟨"TX_PACKET", 0x00000051, 0xFFFC00FF⟩,
    ⟨"RX_FRAME", 0x00000052, 0xFFFDFFFF⟩,
    ⟨"RX_DROP", 0x00000053, 0xFFFFC0FF⟩,
    ⟨"RX_FLUSH", 0x00000054, 0xFFFFFFFF⟩ ]

/-- The mnemonic of a command (30_encoding.md R66). -/
def mnemonic : Instr → String
  | .golayEnc => "GOLAY_ENC"
  | .golayDec => "GOLAY_DEC"
  | .golay3Enc => "GOLAY3_ENC"
  | .golay3Dec => "GOLAY3_DEC"
  | .convInit _ => "CONV_INIT"
  | .convEnc => "CONV_ENC"
  | .vitDec => "VIT_DEC"
  | .ppduRepack _ _ => "PPDU_REPACK"
  | .schemeValid => "SCHEME_VALID"
  | .schemeRate _ => "SCHEME_RATE"
  | .schemeCwBits _ => "SCHEME_CW_BITS"
  | .schemeMsgBits _ => "SCHEME_MSG_BITS"
  | .schemeNumFrags _ => "SCHEME_NUM_FRAGS"
  | .hdrEnc _ _ _ => "HDR_ENC"
  | .hdrDec _ => "HDR_DEC"
  | .frameCount _ => "FRAME_COUNT"
  | .txPacket _ _ _ => "TX_PACKET"
  | .rxFrame _ => "RX_FRAME"
  | .rxDrop _ => "RX_DROP"
  | .rxFlush => "RX_FLUSH"

/-- A command word is well formed when it selects a row of the opcode map (30_encoding.md R66, R67). -/
def wellFormed (w : Word) : Bool := opcodeTable.any fun r => r.selects w

end Sys2Proof
end

