-- ==== Sys2Proof/Decode.lean ====
section
/-!
DEFINITION. The decoder, total on every 32-bit word and rejecting by name (30_encoding.md R60, R63, R66, R67), and the
encoder, both written from the format of R60 and the opcode map of R66.
-/

namespace Sys2Proof

/-- Why a command word is rejected: the first of the three checks of 30_encoding.md R63 that fails. Each of them ends
the command with BadFormat. -/
inductive Rejection where
  /-- `RSV` (bits 31:26) is not zero. -/
  | reservedBits
  /-- `OP` (bits 7:0) is not one of the twenty opcodes. -/
  | unassignedOpcode
  /-- A field the opcode does not use is not zero. -/
  | unusedField
  deriving DecidableEq, Repr

/-- What the decoder answers: a command, or a rejection by name. -/
inductive Decoded where
  | command (i : Instr)
  | rejected (r : Rejection)
  deriving DecidableEq, Repr

/-! ### The fields of a command word (30_encoding.md R60) -/

def fieldRsv (w : Word) : BitVec 6 := w.extractLsb' 26 6
def fieldSt (w : Word) : BitVec 4 := w.extractLsb' 22 4
def fieldDt (w : Word) : BitVec 4 := w.extractLsb' 18 4
def fieldDf1 (w : Word) : Bool := w.getLsbD 17
def fieldRf (w : Word) : BitVec 3 := w.extractLsb' 14 3
def fieldEc (w : Word) : BitVec 6 := w.extractLsb' 8 6
def fieldOp (w : Word) : BitVec 8 := w.extractLsb' 0 8

/-! ### The bits of each field, for the unused-field check -/

def bitsSt : Word := 0x03C00000
def bitsDt : Word := 0x003C0000
def bitsDf1 : Word := 0x00020000
def bitsRf : Word := 0x0001C000
def bitsEc : Word := 0x00003F00

/-- `ST`, `DT`, `DF1`, `RF` and `EC` together: every bit but those of `RSV` and `OP`. -/
def bitsOperands : Word := bitsSt ||| bitsDt ||| bitsDf1 ||| bitsRf ||| bitsEc

/-- The command an opcode selects, with the bits of the fields it uses (the "fields" column of 30_encoding.md R66);
`none` for a reserved opcode (R67). -/
def selectOpcode (w : Word) : Option (Instr × Word) :=
  match (fieldOp w).toNat with
  | 0x01 => some (.golayEnc, 0)
  | 0x02 => some (.golayDec, 0)
  | 0x03 => some (.golay3Enc, 0)
  | 0x04 => some (.golay3Dec, 0)
  | 0x10 => some (.convInit (fieldEc w), bitsEc)
  | 0x11 => some (.convEnc, 0)
  | 0x12 => some (.vitDec, 0)
  | 0x20 => some (.ppduRepack (fieldSt w) (fieldDt w), bitsSt ||| bitsDt)
  | 0x30 => some (.schemeValid, 0)
  | 0x31 => some (.schemeRate (fieldEc w), bitsEc)
  | 0x32 => some (.schemeCwBits (fieldEc w), bitsEc)
  | 0x33 => some (.schemeMsgBits (fieldEc w), bitsEc)
  | 0x34 => some (.schemeNumFrags (fieldEc w), bitsEc)
  | 0x40 => some (.hdrEnc (fieldEc w) (fieldRf w) (fieldDf1 w), bitsEc ||| bitsRf ||| bitsDf1)
  | 0x41 => some (.hdrDec (fieldDf1 w), bitsDf1)
  | 0x50 => some (.frameCount (fieldEc w), bitsEc)
  | 0x51 => some (.txPacket (fieldEc w) (fieldRf w) (fieldDf1 w), bitsEc ||| bitsRf ||| bitsDf1)
  | 0x52 => some (.rxFrame (fieldDf1 w), bitsDf1)
  | 0x53 => some (.rxDrop (fieldEc w), bitsEc)
  | 0x54 => some (.rxFlush, 0)
  | _ => none

/-- Decoding in the three checks of 30_encoding.md R63, in their order. -/
def decode (w : Word) : Decoded :=
  if fieldRsv w ≠ 0 then .rejected .reservedBits
  else
    match selectOpcode w with
    | none => .rejected .unassignedOpcode
    | some (i, used) => if w &&& bitsOperands &&& ~~~used ≠ 0 then .rejected .unusedField else .command i

/-- A command word from its fields, `RSV` zero (30_encoding.md R60). -/
def packWord (st dt : BitVec 4) (df1 : Bool) (rf : BitVec 3) (ec : BitVec 6) (op : BitVec 8) : Word :=
  0#6 ++ st ++ dt ++ BitVec.ofBool df1 ++ rf ++ ec ++ op

/-- The word of a command: its fields, its opcode, every other bit zero (30_encoding.md R60, R66, R69). -/
def encode : Instr → Word
  | .golayEnc => packWord 0 0 false 0 0 0x01
  | .golayDec => packWord 0 0 false 0 0 0x02
  | .golay3Enc => packWord 0 0 false 0 0 0x03
  | .golay3Dec => packWord 0 0 false 0 0 0x04
  | .convInit ec => packWord 0 0 false 0 ec 0x10
  | .convEnc => packWord 0 0 false 0 0 0x11
  | .vitDec => packWord 0 0 false 0 0 0x12
  | .ppduRepack st dt => packWord st dt false 0 0 0x20
  | .schemeValid => packWord 0 0 false 0 0 0x30
  | .schemeRate ec => packWord 0 0 false 0 ec 0x31
  | .schemeCwBits ec => packWord 0 0 false 0 ec 0x32
  | .schemeMsgBits ec => packWord 0 0 false 0 ec 0x33
  | .schemeNumFrags ec => packWord 0 0 false 0 ec 0x34
  | .hdrEnc ec rf df1 => packWord 0 0 df1 rf ec 0x40
  | .hdrDec df1 => packWord 0 0 df1 0 0 0x41
  | .frameCount ec => packWord 0 0 false 0 ec 0x50
  | .txPacket ec rf df1 => packWord 0 0 df1 rf ec 0x51
  | .rxFrame df1 => packWord 0 0 df1 0 0 0x52
  | .rxDrop ec => packWord 0 0 false 0 ec 0x53
  | .rxFlush => packWord 0 0 false 0 0 0x54

/-- The command a word of `nbits` bits decodes to; `none` where the decoder rejects it. `CMD` is a 32-bit scalar
register, so no byte order applies (20_memory.md R43): the word is the register. -/
def decodeTableWord (nbits w : Nat) : Option Instr :=
  match decode (BitVec.ofNat 32 (w % 2 ^ nbits)) with
  | .command i => some i
  | .rejected _ => none

end Sys2Proof
end

