-- ==== Sys2Proof/Machine/Bits.lean ====
section
/-!
DEFINITION. Bits and octets: population count, parity, the majority vote (00_scope.md R14), and the conversions between
bit sequences and octets that hold `t` bits each, MSB first (00_scope.md R13, 41_ppdu.md R100, R101).
-/

namespace Sys2Proof.Machine

/-- The number of 1 bits among the `k` lowest bits of a natural. -/
def onesOfNat : Nat → Nat → Nat
  | 0, _ => 0
  | k + 1, v => v % 2 + onesOfNat k (v / 2)

/-- `popcount(v)` (00_scope.md R14). -/
def popcount {n : Nat} (v : BitVec n) : Nat := onesOfNat n v.toNat

/-- `parity(v) = popcount(v) mod 2` (00_scope.md R14). -/
def parity {n : Nat} (v : BitVec n) : Bool := popcount v % 2 == 1

/-- `maj(a,b,c)`, bitwise (00_scope.md R14). -/
def maj {n : Nat} (a b c : BitVec n) : BitVec n := (a &&& b) ||| (a &&& c) ||| (b &&& c)

/-- `ceil(a/b) = floor((a+b-1)/b)` (00_scope.md R14). -/
def ceilDiv (a b : Nat) : Nat := (a + b - 1) / b

/-- `zeros(n)` for octets (00_scope.md R13). -/
def zeroOctets (n : Nat) : Bytes := List.replicate n 0

/-- `pad(n, x)`: `x` followed by zero octets up to length `n` (00_scope.md R13). -/
def padOctets (n : Nat) (x : Bytes) : Bytes := x ++ zeroOctets (n - x.length)

/-- The integer a bit sequence reads as, MSB first (00_scope.md R12). -/
def bitsValue (s : Bits) : Nat := s.foldl (fun v b => 2 * v + b.toNat) 0

/-- One octet that holds `t` bits in its low `t` positions, MSB first; positions past the end of `s` are 0
(41_ppdu.md R100, R101). -/
def octetOfBits (t : Nat) (s : Bits) : Byte :=
  BitVec.ofNat 8 (bitsValue (s.take t ++ List.replicate (t - s.length) false))

/-- The first `n` octets of the `t`-bits-per-octet form of `s`. -/
def packOctets (t : Nat) : Nat → Bits → Bytes
  | 0, _ => []
  | n + 1, s => octetOfBits t s :: packOctets t n (s.drop t)

/-- `form_t(s)`: `ceil(len s / t)` octets of `t` bits each (41_ppdu.md R100). -/
def packForm (t : Nat) (s : Bits) : Bytes := packOctets t (ceilDiv s.length t) s

/-- The low `t` bits of an octet, MSB first (41_ppdu.md R100). -/
def octetBits (t : Nat) (o : Byte) : Bits := (List.range t).map fun u => o.getLsbD (t - 1 - u)

/-- The bits of a sequence of octets that hold `t` bits each (41_ppdu.md R102: `bits<i>` is bit `t-1-(i mod t)` of octet
`floor(i/t)`). -/
def unpackForm (t : Nat) (x : Bytes) : Bits := x.flatMap (octetBits t)

/-- `bits8(B)`: the bits of the octets of `B`, each MSB first (00_scope.md R13). -/
def bits8 (x : Bytes) : Bits := unpackForm 8 x

/-- `pack8(s)`: octets of eight bits, MSB first, the last zero-padded (00_scope.md R13). -/
def pack8 (s : Bits) : Bytes := packForm 8 s

/-- The octets of a 72-bit integer, big-endian (20_memory.md R41). -/
def octets72 (h : BitVec 72) : Bytes := (List.range 9).map fun i => h.extractLsb' (64 - 8 * i) 8

/-- The big-endian 72-bit integer of nine octets (20_memory.md R41). -/
def be72 (x : Bytes) : BitVec 72 := x.foldl (fun h o => h <<< 8 ||| o.setWidth 72) 0

end Sys2Proof.Machine
end

