-- ==== Sys2Proof/Machine/Instance.lean ====
section
/-!
DEFINITION. The fixed constants (00_scope.md R7, R8), the listing order of the schemes (40_scheme_table.md R80), the
default instance and the constraints of a legal instance (00_scope.md R9, 70_reset_and_hazards.md R211).
-/

namespace Sys2Proof.Machine

/-! ### Fixed constants (00_scope.md R7, R8) -/

/-- `MPDU_LEN`: octets of a frame without Data Field 1. -/
def mpduLen : Nat := 128
/-- `HDR_LEN`: octets of the header. -/
def hdrLen : Nat := 9
/-- `MTU`: payload octets of a frame. -/
def mtu : Nat := 119
/-- `K`: the convolutional constraint length. -/
def constraintLength : Nat := 7
/-- `CSP_MTU`: the upstream CSP packet limit; no command reads it (the limit of a user packet is 4095 octets,
90_conflicts.md C12). -/
def cspMtu : Nat := 4096
/-- `G1 = 0x79 = 0o171`. -/
def polyG1 : BitVec 7 := 0x79
/-- `G2 = 0x5B = 0o133`. -/
def polyG2 : BitVec 7 := 0x5B

/-! ### The schemes in listing order (40_scheme_table.md R80, R83) -/

def allConvRates : List ConvRate := [.r12, .r23, .r34, .r56, .r78]
def allRsCodes : List RsCode := [.rs255k239, .rs255k223]
def allInterleavings : List Interleaving := [.i1, .i2, .i3, .i4, .i5, .i8]
def allTurboBlocks : List TurboBlock := [.k1784, .k3568, .k7136, .k8920]
def allTurboRates : List TurboRate := [.r12, .r13, .r14, .r16]
def allOrangeLengths : List OrangeLength := [.n1280, .n1536, .n2048]
def allQcLengths : List QcLength := [.n648, .n1296, .n1944]
def allQcRates : List QcRate := [.r12, .r23, .r34, .r56]

/-- The 49 schemes: families in the source's order, within a family the order of the listed parameters, size before
rate (40_scheme_table.md R80). -/
def allSchemes : List Scheme :=
  allConvRates.map .conv
    ++ allRsCodes.flatMap (fun c => allInterleavings.map (.reedSolomon c))
    ++ allTurboBlocks.flatMap (fun k => allTurboRates.map (.turbo k))
    ++ allOrangeLengths.map .orangeBook
    ++ allQcLengths.flatMap (fun n => allQcRates.map (.qcLdpc n))
    ++ [.noFec]

/-! ### The default instance (00_scope.md R9) -/

/-- The default parity matrix (42_golay.md R110). -/
def defaultGolayB : List (BitVec 12) :=
  [0xDC5, 0xB8B, 0x717, 0xE2D, 0xC5B, 0x8B7, 0x16F, 0x2DD, 0x5B9, 0xB71, 0x6E3, 0xFFE]

/-- The default wire codes: 0 to 48 in listing order (40_scheme_table.md R80). -/
def defaultEcCode : List (BitVec 6) := (List.range 49).map (BitVec.ofNat 6)

/-- The default column of 00_scope.md R9. -/
def defaultParams : Params :=
  { cmax := 952, convTail := .none, tbStart := .zero, polyOrder := .msbCurrent,
    golayB := defaultGolayB, ecCode := defaultEcCode, reasmCtxMax := none, ioMax := none }

/-! ### Legal instances (00_scope.md R9, 70_reset_and_hazards.md R211) -/

/-- Every sum of rows of `[I12 | B]` that takes some of `rows`, added to a sum of `w` rows with parity half `acc`, is
zero rows or a codeword of weight at least 8. -/
def sumsHaveWeight8 : List (BitVec 12) → Nat → BitVec 12 → Bool
  | [], w, acc => w == 0 || decide (8 ≤ w + popcount acc)
  | row :: rows, w, acc => sumsHaveWeight8 rows w acc && sumsHaveWeight8 rows (w + 1) (acc ^^^ row)

/-- `[I12, B]` generates a `[24,12,8]` code: twelve rows, every nonzero codeword of weight at least 8 (00_scope.md R9).
The default matrix is known to (Laws: `defaultGolayB_sumsHaveWeight8`) and is not checked again. -/
def golayMatrixOk (b : List (BitVec 12)) : Bool :=
  b == defaultGolayB || (b.length == 12 && sumsHaveWeight8 b 0 0)

/-- An injective map from the 49 schemes into 6-bit codes (00_scope.md R9). -/
def ecCodeOk (c : List (BitVec 6)) : Bool :=
  c == defaultEcCode || (c.length == 49 && decide c.Nodup)

/-- `CMAX` in its range (40_scheme_table.md R84). -/
def cmaxOk (n : Nat) : Bool := decide (28 ≤ n) && decide (n ≤ 121856)

/-- A natural at least `least`, or `UNBOUNDED`. -/
def boundOk (least : Nat) : Option Nat → Bool
  | none => true
  | some n => decide (least ≤ n)

/-- The parameters satisfy every constraint of 00_scope.md R9: the instance is legal (70_reset_and_hazards.md R211). -/
def legalParams (p : Params) : Bool :=
  cmaxOk p.cmax && golayMatrixOk p.golayB && ecCodeOk p.ecCode && boundOk 1 p.reasmCtxMax && boundOk 4096 p.ioMax

end Sys2Proof.Machine
end

