-- ==== Sys2Proof/Machine/State.lean ====
section
/-!
DEFINITION. The state of the core as plain data: the interface registers, `CODEC`, `REASM`, the Viterbi scratch and the
instance parameters (10_state.md R20 to R33), its reset, and the reasons a step can stop.
-/

namespace Sys2Proof.Machine

/-- A context key `(upl, ec)` (10_state.md R27, 45_mpdu_framer.md R173). -/
structure CtxKey where
  upl : BitVec 12
  ec : BitVec 6
  deriving DecidableEq, Repr

/-- A slot `(upfi, cfi)` of a context (10_state.md R28). -/
structure Slot where
  upfi : BitVec 8
  cfi : BitVec 7
  deriving DecidableEq, Repr

/-- One reassembly context: the fragments received and the codewords decoded (10_state.md R28). Both maps are lists of
key and value in strictly rising key order (log 12). -/
structure Context where
  frag : List (Slot × Bytes)
  dec : List (BitVec 8 × Bytes)
  deriving DecidableEq, Repr

/-- The whole state of one instance of the core. -/
structure State where
  /-- `CMD`, the command word the host wrote (10_state.md R20). -/
  cmd : Word
  /-- `OPA`, the scalar operand (10_state.md R20). -/
  opa : Word
  /-- `IN`, the input octet sequence (10_state.md R20). -/
  input : Bytes
  /-- `STATUS` (10_state.md R25). -/
  status : BitVec 4
  /-- `RES0` (10_state.md R20). -/
  res0 : Word
  /-- `RES1` (10_state.md R20). -/
  res1 : Word
  /-- `OUT`, the output octet sequence (10_state.md R20). -/
  out : Bytes
  /-- `CODEC`: bit 6 `INIT`, bits 5:0 `SCHEME` (10_state.md R24). -/
  codec : BitVec 7
  /-- `REASM`, in strictly rising key order (10_state.md R27; log 12). -/
  reasm : List (CtxKey × Context)
  /-- The Viterbi scratch (10_state.md R29). -/
  scratch : VitScratch
  /-- The model's own: how many free values have been used (log 4, log 5). -/
  freeIx : Nat
  /-- The instance parameters, fixed at reset (10_state.md R26, R33; 70_reset_and_hazards.md R211; log 1). -/
  params : Params
  deriving DecidableEq, Repr

/-- The core has no fault: every command ends with a status (00_scope.md R16, 60_exceptions.md R195: "No status stops
the core or needs a reset"). So there is no constructor. -/
inductive Fault where
  deriving DecidableEq, Repr

/-- Why a step has no next state. -/
inductive Refusal where
  /-- Raised by `exec`'s arm of a command that has no meaning yet; no arm raises it. Safe: nothing is claimed of it. -/
  | notModelled (mnemonic : String)
  /-- Raised by `step` on an instance whose parameters break their constraints: 70_reset_and_hazards.md R211 "A model
  may refuse to construct it, and no command of such an instance is specified". Safe: no next state is claimed (log 7). -/
  | illegalInstance
  deriving DecidableEq, Repr

/-- The Viterbi scratch at reset: 10_state.md R33 leaves it unspecified; zero metrics and an empty trellis are a
DESIGN CHOICE, unsafe (log 3). -/
def resetScratch : VitScratch :=
  { pm := Vector.replicate 64 (.fin 0), npm := Vector.replicate 64 (.fin 0), pred := [] }

/-- The instance with parameters `p` right after reset (10_state.md R33, 70_reset_and_hazards.md R210). `CMD`, `OPA` and
`IN` are unspecified there until the host writes them: 0, 0 and empty are a DESIGN CHOICE, unsafe (log 2). -/
def State.resetWith (p : Params) : State :=
  { cmd := 0, opa := 0, input := [], status := 0, res0 := 0, res1 := 0, out := [], codec := 0, reasm := [],
    scratch := resetScratch, freeIx := 0, params := p }

/-- The default instance right after reset (00_scope.md R9, 10_state.md R33; log 1). -/
def State.reset : State := State.resetWith defaultParams

end Sys2Proof.Machine
end

