-- ==== Sys2Proof/Machine/Flags.lean ====
section
/-!
DEFINITION. The core has no condition flags (10_state.md R22): the booleans a command computes are fields of `RES1`.
This file holds the codes of `STATUS` (60_exceptions.md R190), the fields of `CODEC` (10_state.md R24), and every packing
of `RES0` and `RES1` (30_encoding.md R65, 42_golay.md R115, R119).
-/

namespace Sys2Proof.Machine

/-- The completion statuses (60_exceptions.md R190). -/
inductive Status where
  | ok | invalidScheme | notImplemented | badFormat | headerCorrupt | codewordUndecodable | reassemblyFull
  deriving DecidableEq, Repr

/-- The 4-bit code of a status (60_exceptions.md R190). -/
def statusCode : Status → BitVec 4
  | .ok => 0
  | .invalidScheme => 1
  | .notImplemented => 2
  | .badFormat => 3
  | .headerCorrupt => 4
  | .codewordUndecodable => 5
  | .reassemblyFull => 6

/-- `CODEC.INIT`, bit 6 (10_state.md R24). -/
def codecInit (c : BitVec 7) : Bool := c.getLsbD 6

/-- `CODEC.SCHEME`, bits 5:0 (10_state.md R24). -/
def codecScheme (c : BitVec 7) : BitVec 6 := c.extractLsb' 0 6

/-- `CODEC` from its two fields (10_state.md R24). -/
def packCodec (init : Bool) (ec : BitVec 6) : BitVec 7 := BitVec.ofBool init ++ ec

/-- The outcome field of RX_FRAME (45_mpdu_framer.md R172). -/
inductive FrameKind where
  | fragmentAccepted | packetReady | headerInvalid | rejected
  deriving DecidableEq, Repr

/-- `kind` in bits 22:21 of `HPACK_B` (45_mpdu_framer.md R172). -/
def kindCode : FrameKind → BitVec 2
  | .fragmentAccepted => 0
  | .packetReady => 1
  | .headerInvalid => 2
  | .rejected => 3

/-- `HPACK_A(cfi, upl, upfi)` (30_encoding.md R65). -/
def hpackA (cfi : BitVec 7) (upl : BitVec 12) (upfi : BitVec 8) : Word := 0#5 ++ upfi ++ upl ++ cfi

/-- `HPACK_B(ec, rf, valid, ok0, ok1, ok2, uhf, kind)` (30_encoding.md R65). -/
def hpackB (ec : BitVec 6) (rf : BitVec 3) (valid ok0 ok1 ok2 : Bool) (uhf : BitVec 8) (kind : BitVec 2) : Word :=
  0#9 ++ kind ++ uhf ++ BitVec.ofBool ok2 ++ BitVec.ofBool ok1 ++ BitVec.ofBool ok0 ++ BitVec.ofBool valid ++ rf ++ ec

/-- `RES1` of GOLAY_DEC: bit 0 correctable, bits 15:8 detected_errors (42_golay.md R115). -/
def packGolayDec (ok : Bool) (nerr : BitVec 8) : Word := 0#16 ++ nerr ++ 0#7 ++ BitVec.ofBool ok

/-- `RES1` of GOLAY3_DEC: the three error counts, the three correctable bits and the vote's validity (42_golay.md R119). -/
def packGolay3Dec (nerr0 nerr1 nerr2 : BitVec 8) (ok0 ok1 ok2 valid : Bool) : Word :=
  nerr2 ++ nerr1 ++ nerr0 ++ 0#4 ++ BitVec.ofBool ok2 ++ BitVec.ofBool ok1 ++ BitVec.ofBool ok0 ++ BitVec.ofBool valid

/-- The vote of GOLAY3_DEC is valid when at least two words are correctable (42_golay.md R119). -/
def voteValid (ok0 ok1 ok2 : Bool) : Bool := decide (2 ≤ ok0.toNat + ok1.toNat + ok2.toNat)

end Sys2Proof.Machine
end

