-- ==== Sys2Proof/Machine/Operands.lean ====
section
/-!
DEFINITION. The operands of a command: the fields of `OPA` (30_encoding.md R64, R65) and the octets of `IN`
(20_memory.md R47). Bits of `OPA` above a field are ignored, nothing is sign-extended or scaled (R64).
-/

namespace Sys2Proof.Machine

/-- `d = OPA[11:0]`: GOLAY_ENC, GOLAY3_ENC. -/
def opaGolayData (s : State) : BitVec 12 := s.opa.extractLsb' 0 12

/-- `r = OPA[23:0]`: GOLAY_DEC. -/
def opaGolayWord (s : State) : BitVec 24 := s.opa.extractLsb' 0 24

/-- `L = OPA[31:0]`, the true bit length: PPDU_REPACK. -/
def opaBitLength (s : State) : Nat := s.opa.toNat

/-- `code = OPA[31:0]`: SCHEME_VALID. -/
def opaSchemeCode (s : State) : Nat := s.opa.toNat

/-- `payload = OPA[31:0]`, octets per fragment: SCHEME_NUM_FRAGS. -/
def opaPayload (s : State) : Nat := s.opa.toNat

/-- `P = OPA[31:0]`, user packet length in octets: FRAME_COUNT. -/
def opaPacketLength (s : State) : Nat := s.opa.toNat

/-- `cfi = OPA[6:0]` of `HPACK_A`: HDR_ENC. -/
def opaCfi (s : State) : BitVec 7 := s.opa.extractLsb' 0 7

/-- `upl = OPA[18:7]` of `HPACK_A`: HDR_ENC. -/
def opaUpl (s : State) : BitVec 12 := s.opa.extractLsb' 7 12

/-- `upfi = OPA[26:19]` of `HPACK_A`: HDR_ENC. -/
def opaUpfi (s : State) : BitVec 8 := s.opa.extractLsb' 19 8

/-- `upl = OPA[11:0]`: RX_DROP. -/
def opaDropUpl (s : State) : BitVec 12 := s.opa.extractLsb' 0 12

/-- `snr = OPA[31:0]`: VIT_DEC, read and ignored ("`snr_estimate` is accepted but unused", 43_convolutional.md R137). -/
def opaSnr (s : State) : Word := s.opa

/-- The four legal bits-per-octet tags (00_scope.md R8, 41_ppdu.md R102). -/
def tagSupported (t : Nat) : Bool := t == 1 || t == 2 || t == 4 || t == 8

end Sys2Proof.Machine
end

