-- ==== Sys2Proof/Machine/Ops.lean ====
section
/-!
DEFINITION. The shared operations: finite maps (`REASM` and its contexts, 10_state.md R27, R28), completing a command
and raising a status (the error rule, 60_exceptions.md R191, which is all this core has of exceptions: R199, R200), the
buffer bounds (R192), the Viterbi scratch, and what the host does between commands (10_state.md R20,
70_reset_and_hazards.md R212).
-/

namespace Sys2Proof.Machine

/-! ### Finite maps: key and value in strictly rising order of the keys' codes (log 12) -/

/-- The value at key `k`, if the map has one. -/
def mapLookup {κ β : Type} (code : κ → Nat) (k : κ) : List (κ × β) → Option β
  | [] => none
  | e :: m => if code e.1 = code k then some e.2 else mapLookup code k m

/-- The map with the value at key `k` replaced, or added in key order. -/
def mapInsert {κ β : Type} (code : κ → Nat) (k : κ) (v : β) : List (κ × β) → List (κ × β)
  | [] => [(k, v)]
  | e :: m =>
    if code k < code e.1 then (k, v) :: e :: m
    else if code k = code e.1 then (k, v) :: m
    else e :: mapInsert code k v m

/-- The map without key `k`. -/
def mapErase {κ β : Type} (code : κ → Nat) (k : κ) : List (κ × β) → List (κ × β)
  | [] => []
  | e :: m => if code e.1 = code k then m else e :: mapErase code k m

/-- The canonical form of a map: keys strictly rising, so each key at most once (10_state.md R27). -/
abbrev MapSorted {κ β : Type} (code : κ → Nat) (m : List (κ × β)) : Prop :=
  m.Pairwise fun a b => code a.1 < code b.1

/-- The order of context keys: by `upl`, then `ec`. -/
def ctxCode (k : CtxKey) : Nat := k.upl.toNat * 64 + k.ec.toNat

/-- The order of slots: by `upfi`, then `cfi`. -/
def slotCode (k : Slot) : Nat := k.upfi.toNat * 128 + k.cfi.toNat

/-- The order of codeword indices. -/
def decCode (j : BitVec 8) : Nat := j.toNat

/-- A context with empty maps (45_mpdu_framer.md R173). -/
def emptyContext : Context := { frag := [], dec := [] }

/-- The canonical form of `REASM`: contexts in strictly rising key order, the two maps of each in strictly rising key
order, and every fragment `MTU` = 119 octets (10_state.md R27, R28; log 12). -/
abbrev ReasmWf (m : List (CtxKey × Context)) : Prop :=
  MapSorted ctxCode m ∧
    ∀ e ∈ m, MapSorted slotCode e.2.frag ∧ MapSorted decCode e.2.dec ∧ ∀ f ∈ e.2.frag, f.2.length = mtu

/-- `f 0 ++ .. ++ f (n-1)`, if every one of them is there. -/
def gather (f : Nat → Option Bytes) : Nat → Option Bytes
  | 0 => some []
  | n + 1 =>
    match gather f n, f n with
    | some x, some y => some (x ++ y)
    | _, _ => none

/-! ### Completing a command and raising a status -/

/-- `n` octets fit in `IN` or `OUT` (60_exceptions.md R192). -/
def ioFits (p : Params) (n : Nat) : Bool :=
  match p.ioMax with
  | none => true
  | some m => decide (n ≤ m)

/-- A count in a 32-bit result register: the count where it fits, a free value where it does not (log 16). -/
def countWord (n : Nat) : Word := if n < 2 ^ 32 then BitVec.ofNat 32 n else Config.countTooWide n

/-- A command completes with `OK`: it writes all four results (10_state.md R23). -/
def State.complete (s : State) (r0 r1 : Word) (out : Bytes) : State :=
  { s with status := statusCode .ok, res0 := r0, res1 := r1, out := out }

/-- A command raises status `e` with the results its rule names (60_exceptions.md R191): `OUT` is emptied, nothing else
of the state changes. -/
def State.raiseWith (s : State) (e : Status) (r0 r1 : Word) : State :=
  { s with status := statusCode e, res0 := r0, res1 := r1, out := [] }

/-- `raise e`: the error rule (60_exceptions.md R191), `RES0 <- 0` and `RES1 <- 0`. -/
def State.raise (s : State) (e : Status) : State := s.raiseWith e 0 0

/-- A command that passed its own checks ends: with `OK` in the state `s'` that holds its writes, or, when its `OUT`
would be longer than `IO_MAX`, with BadFormat in the state `s` before the command (60_exceptions.md R192). -/
def State.finish (s s' : State) (r0 r1 : Word) (out : Bytes) : State :=
  if ioFits s.params out.length then s'.complete r0 r1 out else s.raise .badFormat

/-- A command that writes nothing but its results (10_state.md R32) ends. -/
def State.reply (s : State) (r0 r1 : Word) (out : Bytes) : State := s.finish s r0 r1 out

/-- Runs a command: "If `len(IN) > IO_MAX`, the command raises BadFormat before any other check of its own"
(60_exceptions.md R192). A command always has a next state (00_scope.md R16). -/
def runCommand (s : State) (body : State → State) : Host.Outcome State Fault Refusal :=
  .next (if ioFits s.params s.input.length then body s else s.raise .badFormat)

/-! ### Writes to the retained state -/

/-- `CODEC <- c` (43_convolutional.md R130). -/
def State.setCodec (s : State) (c : BitVec 7) : State := { s with codec := c }

/-- `REASM <- m` (45_mpdu_framer.md R172, R179, R180). -/
def State.setReasm (s : State) (m : List (CtxKey × Context)) : State := { s with reasm := m }

/-- After a Viterbi decode the scratch holds a free value, a fresh one each time (10_state.md R29; log 4). -/
def State.leaveScratch (s : State) : State :=
  { s with scratch := Config.scratchAfter s.freeIx, freeIx := s.freeIx + 1 }

/-! ### The host, between two commands -/

/-- The host presents a command: it writes `CMD`, `OPA` and `IN` (10_state.md R20, R21; log 6). -/
def State.present (s : State) (cmd opa : Word) (input : Bytes) : State :=
  { s with cmd := cmd, opa := opa, input := input }

/-- A warm reset: the state after reset with the same parameters (70_reset_and_hazards.md R211, R212). The counter of
free values is the model's own and goes on (log 5). -/
def State.warmReset (s : State) : State := { State.resetWith s.params with freeIx := s.freeIx }

end Sys2Proof.Machine
end

