-- ==== Sys2Proof/Machine/SchemeTable.lean ====
section
/-!
DEFINITION. The FEC scheme table (40_scheme_table.md R80 to R93): codes, rates, codeword and message bits, fragment
counts, and the five commands SCHEME_VALID, SCHEME_RATE, SCHEME_CW_BITS, SCHEME_MSG_BITS, SCHEME_NUM_FRAGS.
-/

namespace Sys2Proof.Machine

/-- The row of a 6-bit code: `some` when the code is assigned, `none` when it is not (40_scheme_table.md R81). -/
def schemeOf (p : Params) (ec : BitVec 6) : Option Scheme :=
  ((allSchemes.zip p.ecCode).find? fun e => e.2 == ec).map (·.1)

/-- The enumerated coding rates (40_scheme_table.md R82). -/
inductive CodingRate where
  | r1_6 | r1_5 | r1_4 | r1_3 | r1_2 | r2_3 | r3_4 | r4_5 | r5_6 | r7_8 | r8_9 | r1 | na | bad
  deriving DecidableEq, Repr

/-- The `RATE` code of a rate (40_scheme_table.md R82). -/
def rateCode : CodingRate → Word
  | .r1_6 => 0
  | .r1_5 => 1
  | .r1_4 => 2
  | .r1_3 => 3
  | .r1_2 => 4
  | .r2_3 => 5
  | .r3_4 => 6
  | .r4_5 => 7
  | .r5_6 => 8
  | .r7_8 => 9
  | .r8_9 => 10
  | .r1 => 11
  | .na => 12
  | .bad => 13

/-- The rate of a row (40_scheme_table.md R82). -/
def schemeRate : Scheme → CodingRate
  | .conv .r12 => .r1_2
  | .conv .r23 => .r2_3
  | .conv .r34 => .r3_4
  | .conv .r56 => .r5_6
  | .conv .r78 => .r7_8
  | .reedSolomon .rs255k239 _ => .r8_9
  | .reedSolomon .rs255k223 _ => .r7_8
  | .turbo _ .r12 => .r1_2
  | .turbo _ .r13 => .r1_3
  | .turbo _ .r14 => .r1_4
  | .turbo _ .r16 => .r1_6
  | .orangeBook .n1280 => .r4_5
  | .orangeBook .n1536 => .r2_3
  | .orangeBook .n2048 => .r1_2
  | .qcLdpc _ .r12 => .r1_2
  | .qcLdpc _ .r23 => .r2_3
  | .qcLdpc _ .r34 => .r3_4
  | .qcLdpc _ .r56 => .r5_6
  | .noFec => .r1

/-- `p/q` of a convolutional rate (40_scheme_table.md R85). -/
def convFraction : ConvRate → Nat × Nat
  | .r12 => (1, 2)
  | .r23 => (2, 3)
  | .r34 => (3, 4)
  | .r56 => (5, 6)
  | .r78 => (7, 8)

/-- Message octets of a Reed-Solomon block (40_scheme_table.md R83). -/
def rsMessageOctets : RsCode → Nat
  | .rs255k239 => 239
  | .rs255k223 => 223

/-- The interleaving level (40_scheme_table.md R83). -/
def interleavingLevel : Interleaving → Nat
  | .i1 => 1
  | .i2 => 2
  | .i3 => 3
  | .i4 => 4
  | .i5 => 5
  | .i8 => 8

/-- The Turbo block size (40_scheme_table.md R83). -/
def turboBlockBits : TurboBlock → Nat
  | .k1784 => 1784
  | .k3568 => 3568
  | .k7136 => 7136
  | .k8920 => 8920

/-- `1/r` of a Turbo rate (40_scheme_table.md R83). -/
def turboExpansion : TurboRate → Nat
  | .r12 => 2
  | .r13 => 3
  | .r14 => 4
  | .r16 => 6

/-- The Orange-Book codeword length (40_scheme_table.md R83). -/
def orangeBits : OrangeLength → Nat
  | .n1280 => 1280
  | .n1536 => 1536
  | .n2048 => 2048

/-- The QC-LDPC codeword length (40_scheme_table.md R83). -/
def qcBits : QcLength → Nat
  | .n648 => 648
  | .n1296 => 1296
  | .n1944 => 1944

/-- `p/q` of a QC-LDPC rate (40_scheme_table.md R83). -/
def qcFraction : QcRate → Nat × Nat
  | .r12 => (1, 2)
  | .r23 => (2, 3)
  | .r34 => (3, 4)
  | .r56 => (5, 6)

/-- The NO_FEC geometry: `8 * floor(min(CMAX, 8 * MTU) / 8)` (40_scheme_table.md R86). -/
def noFecBits (p : Params) : Nat := 8 * (min p.cmax (8 * mtu) / 8)

/-- `n(s)`, codeword bits (40_scheme_table.md R83, R85, R86). -/
def codewordBits (p : Params) : Scheme → Nat
  | .conv _ => p.cmax
  | .reedSolomon _ i => 2040 * interleavingLevel i
  | .turbo k r => (turboBlockBits k + 4) * turboExpansion r
  | .orangeBook n => orangeBits n
  | .qcLdpc n _ => qcBits n
  | .noFec => noFecBits p

/-- The message length of a continuous row: `floor(n*r) - (K-1)`, floored to whole octets (40_scheme_table.md R85). -/
def convMessageBits (p : Params) (r : ConvRate) : Nat :=
  let m0 := p.cmax * (convFraction r).1 / (convFraction r).2 - (constraintLength - 1)
  m0 - m0 % 8

/-- `m(s)`, message bits (40_scheme_table.md R83, R85, R86). -/
def messageBits (p : Params) : Scheme → Nat
  | .conv r => convMessageBits p r
  | .reedSolomon c i => 8 * rsMessageOctets c * interleavingLevel i
  | .turbo k _ => turboBlockBits k
  | .orangeBook _ => 1024
  | .qcLdpc n r => qcBits n * (qcFraction r).1 / (qcFraction r).2
  | .noFec => noFecBits p

/-- `c(s) = ceil(n(s) / 8)`, codeword octets (40_scheme_table.md R87). -/
def codewordOctets (p : Params) (c : Scheme) : Nat := ceilDiv (codewordBits p c) 8

/-- `num_frags(s, payload)` (40_scheme_table.md R87). -/
def numFrags (p : Params) (c : Scheme) (payload : Nat) : Nat :=
  match c with
  | .noFec => 1
  | _ => ceilDiv (codewordOctets p c) payload

/-- SCHEME_VALID (40_scheme_table.md R88). -/
def execSchemeValid (s : State) : Host.Outcome State Fault Refusal :=
  runCommand s fun s =>
    if 64 ≤ opaSchemeCode s then s.raise .invalidScheme
    else s.reply (if (schemeOf s.params (BitVec.ofNat 6 (opaSchemeCode s))).isSome then 1 else 0) 0 []

/-- SCHEME_RATE (40_scheme_table.md R89): the one command whose `RES0` is not 0 when the scheme is unassigned. -/
def execSchemeRate (ec : BitVec 6) (s : State) : Host.Outcome State Fault Refusal :=
  runCommand s fun s =>
    match schemeOf s.params ec with
    | none => s.raiseWith .invalidScheme (rateCode .bad) 0
    | some c => s.reply (rateCode (schemeRate c)) 0 []

/-- SCHEME_CW_BITS (40_scheme_table.md R90). -/
def execSchemeCwBits (ec : BitVec 6) (s : State) : Host.Outcome State Fault Refusal :=
  runCommand s fun s =>
    match schemeOf s.params ec with
    | none => s.raise .invalidScheme
    | some c => s.reply (BitVec.ofNat 32 (codewordBits s.params c)) 0 []

/-- SCHEME_MSG_BITS (40_scheme_table.md R91). -/
def execSchemeMsgBits (ec : BitVec 6) (s : State) : Host.Outcome State Fault Refusal :=
  runCommand s fun s =>
    match schemeOf s.params ec with
    | none => s.raise .invalidScheme
    | some c => s.reply (BitVec.ofNat 32 (messageBits s.params c)) 0 []

/-- SCHEME_NUM_FRAGS (40_scheme_table.md R92). -/
def execSchemeNumFrags (ec : BitVec 6) (s : State) : Host.Outcome State Fault Refusal :=
  runCommand s fun s =>
    match schemeOf s.params ec with
    | none => s.raise .invalidScheme
    | some c =>
      if opaPayload s = 0 then s.raise .badFormat
      else s.reply (BitVec.ofNat 32 (numFrags s.params c (opaPayload s))) 0 []

end Sys2Proof.Machine
end

