-- ==== Sys2Proof/Machine/Convolutional.lean ====
section
/-!
DEFINITION. The convolutional encoder and the Viterbi decoder, K=7, R=1/2 (43_convolutional.md R130 to R139): CONV_INIT,
CONV_ENC, VIT_DEC.
-/

namespace Sys2Proof.Machine

/-! ### Encoder (43_convolutional.md R131 to R134) -/

/-- The two output bits `(o1, o2)` from register `st` with input bit `b` (43_convolutional.md R131). -/
def encOutputs (po : PolyOrder) (st : BitVec 6) (b : Bool) : Bool × Bool :=
  let r : BitVec 7 := BitVec.ofBool b ++ st
  match po with
  | .msbCurrent => (parity (r &&& polyG1), parity (r &&& polyG2))
  | .lsbCurrent => (parity (r.reverse &&& polyG1), parity (r.reverse &&& polyG2))

/-- The next register: `b << 5 | st >> 1` (43_convolutional.md R131). -/
def encNext (st : BitVec 6) (b : Bool) : BitVec 6 := BitVec.ofBool b ++ st.extractLsb' 1 5

/-- The output bits from register `st`, `o1` then `o2` for each input bit (43_convolutional.md R132). -/
def convBitsFrom (po : PolyOrder) (st : BitVec 6) : Bits → Bits
  | [] => []
  | b :: u => (encOutputs po st b).1 :: (encOutputs po st b).2 :: convBitsFrom po (encNext st b) u

/-- `ConvBits(u)`, from register 0 (43_convolutional.md R132). -/
def convBits (po : PolyOrder) (u : Bits) : Bits := convBitsFrom po 0 u

/-- The zero bits the stand-alone encoder appends (43_convolutional.md R134). -/
def convTailBits : ConvTail → Bits
  | .none => []
  | .zero6 => List.replicate (constraintLength - 1) false

/-! ### Viterbi decoder (43_convolutional.md R135, R136) -/

/-- `INF + n = INF` (00_scope.md R14). -/
def metricAdd : Metric → Nat → Metric
  | .fin m, n => .fin (m + n)
  | .inf, _ => .inf

/-- The order of metrics: `n < INF` for every natural (00_scope.md R14). -/
def metricLe : Metric → Metric → Bool
  | .fin m, .fin n => decide (m ≤ n)
  | .inf, .fin _ => false
  | _, .inf => true

/-- Consecutive elements two by two; an odd last element is dropped. -/
def pairUp {α : Type} : List α → List (α × α)
  | a :: b :: l => (a, b) :: pairUp l
  | _ => []

/-- The Hamming distance between a received pair and a generated pair (43_convolutional.md R135). -/
def branchMetric (r g : Bool × Bool) : Nat := (xor r.1 g.1).toNat + (xor r.2 g.2).toNat

/-- The first predecessor `p_0 = 2 * (s' AND 31)` of state `s'`; the second is `p_0 + 1` (43_convolutional.md R135). -/
def firstPred (s' : Nat) : Nat := 2 * (s' % 32)

/-- The bit that enters state `s'`: `s' >> 5` (43_convolutional.md R135). -/
def stateBit (s' : Nat) : Bool := s' / 32 % 2 == 1

/-- One row for each state `s'` in 0..63: its first predecessor and the outputs on the transitions from its two
predecessors (43_convolutional.md R135). -/
def trellisRows (po : PolyOrder) : List (Nat × (Bool × Bool) × (Bool × Bool)) :=
  (List.range 64).map fun s' =>
    (firstPred s',
      encOutputs po (BitVec.ofNat 6 (firstPred s')) (stateBit s'),
      encOutputs po (BitVec.ofNat 6 (firstPred s' + 1)) (stateBit s'))

/-- The survivor into one state: its metric and its predecessor. A tie keeps the lower predecessor
(43_convolutional.md R135). -/
def selectSurvivor (r : Bool × Bool) (pm : Metric × Metric) (row : Nat × (Bool × Bool) × (Bool × Bool)) :
    Metric × Nat :=
  let m0 := metricAdd pm.1 (branchMetric r row.2.1)
  let m1 := metricAdd pm.2 (branchMetric r row.2.2)
  if metricLe m0 m1 then (m0, row.1) else (m1, row.1 + 1)

/-- Add-compare-select for one received pair: the survivors into the states 0..63. The metrics of the two predecessors
of `s'` are the pair number `s' AND 31` of `pm` (43_convolutional.md R135; log 10). -/
def acsStep (po : PolyOrder) (pm : List Metric) (r : Bool × Bool) : List (Metric × Nat) :=
  List.zipWith (selectSurvivor r) (pairUp pm ++ pairUp pm) (trellisRows po)

/-- The initial metrics: 0 for state 0, `INF` elsewhere (43_convolutional.md R135). -/
def initialMetrics : List Metric := .fin 0 :: List.replicate 63 .inf

/-- The final path metrics and the traceback trellis `PRED`, first pair first (43_convolutional.md R135). -/
def acsRun (po : PolyOrder) : List Metric → List (Bool × Bool) → List Metric × List (List Nat)
  | pm, [] => (pm, [])
  | pm, r :: rs =>
    let survivors := acsStep po pm r
    let rest := acsRun po (survivors.map (·.1)) rs
    (rest.1, survivors.map (·.2) :: rest.2)

/-- The lowest index of a minimal metric, given the best index and metric so far and the index of the list's head. -/
def lowestMinFrom (best : Nat) (m : Metric) (x : Nat) : List Metric → Nat
  | [] => best
  | n :: l => if metricLe m n then lowestMinFrom best m (x + 1) l else lowestMinFrom x n (x + 1) l

/-- The lowest `x` with `PM[x]` minimal (43_convolutional.md R136). -/
def lowestMin : List Metric → Nat
  | [] => 0
  | m :: l => lowestMinFrom 0 m 1 l

/-- The state the traceback starts from (43_convolutional.md R136). -/
def tracebackStart (tb : TbStart) (pm : List Metric) : Nat :=
  match tb with
  | .zero => 0
  | .minMetric => lowestMin pm

/-- The decoded bits, last bit first, walking the trellis rows last row first (43_convolutional.md R136). -/
def traceback : List (List Nat) → Nat → Bits
  | [], _ => []
  | row :: rows, st => stateBit st :: traceback rows (row.getD st 0)

/-- `Viterbi(r)`: the survivor path's bits less the last `K-1` (43_convolutional.md R135, R136). -/
def viterbi (po : PolyOrder) (tb : TbStart) (r : Bits) : Bits :=
  let pairs := pairUp r
  let run := acsRun po initialMetrics pairs
  let u := (traceback run.2.reverse (tracebackStart tb run.1)).reverse
  u.take (pairs.length - (constraintLength - 1))

/-! ### Commands -/

/-- The uninitialised sentinel `u32::MAX` (43_convolutional.md R133, R137). -/
def sentinel : Word := 0xFFFFFFFF

/-- CONV_INIT (43_convolutional.md R130): it writes `CODEC` before it raises. -/
def execConvInit (ec : BitVec 6) (s : State) : Host.Outcome State Fault Refusal :=
  runCommand s fun s =>
    match schemeOf s.params ec with
    | none => (s.setCodec (packCodec false ec)).raise .invalidScheme
    | some (.conv .r12) => s.finish (s.setCodec (packCodec true ec)) 0 0 []
    | some _ => (s.setCodec (packCodec false ec)).raise .notImplemented

/-- CONV_ENC (43_convolutional.md R133). -/
def execConvEnc (s : State) : Host.Outcome State Fault Refusal :=
  runCommand s fun s =>
    if !codecInit s.codec then s.reply sentinel 0 []
    else
      let v := convBits s.params.polyOrder (bits8 s.input ++ convTailBits s.params.convTail)
      s.reply (countWord v.length) 0 (pack8 v)

/-- VIT_DEC (43_convolutional.md R137): `OPA` (`snr`) is read and ignored; the decode leaves the scratch unspecified. -/
def execVitDec (s : State) : Host.Outcome State Fault Refusal :=
  runCommand s fun s =>
    let _snr := opaSnr s
    if !codecInit s.codec then s.reply sentinel 0 []
    else
      let u := viterbi s.params.polyOrder s.params.tbStart (bits8 s.input)
      s.finish s.leaveScratch 0 (countWord u.length) (pack8 u)

end Sys2Proof.Machine
end

