-- ==== Sys2Proof/Machine/Golay.lean ====
section
/-!
DEFINITION. The Golay(24,12) codec and the triple-repetition voter (42_golay.md R110 to R120): GOLAY_ENC, GOLAY_DEC,
GOLAY3_ENC, GOLAY3_DEC.
-/

namespace Sys2Proof.Machine

/-- `p(d)`: the sum of the rows `B_i` with `d[11-i] = 1` (42_golay.md R111). -/
def parityMap (b : List (BitVec 12)) (d : BitVec 12) : BitVec 12 :=
  b.zipIdx.foldl (fun acc e => if d.getMsbD e.2 then acc ^^^ e.1 else acc) 0

/-- `E(d) = d << 12 | p(d)` (42_golay.md R111). -/
def golayEncode (b : List (BitVec 12)) (d : BitVec 12) : BitVec 24 := d ++ parityMap b d

/-- The data half `r[23:12]`. -/
def golayDataHalf (r : BitVec 24) : BitVec 12 := r.extractLsb' 12 12

/-- The parity half `r[11:0]`. -/
def golayParityHalf (r : BitVec 24) : BitVec 12 := r.extractLsb' 0 12

/-- `syn(r) = p(r[23:12]) XOR r[11:0]` (42_golay.md R112). -/
def golaySyndrome (b : List (BitVec 12)) (r : BitVec 24) : BitVec 12 :=
  parityMap b (golayDataHalf r) ^^^ golayParityHalf r

/-- The naturals below `2^n` with at most `k` ones, in rising order. -/
def lowWeight : Nat → Nat → List Nat
  | 0, _ => [0]
  | n + 1, 0 => lowWeight n 0
  | n + 1, k + 1 => lowWeight n (k + 1) ++ (lowWeight n k).map (· + 2 ^ n)

/-- The error pattern of `LEADERS` (at most three ones) with syndrome `syn`, if there is one (42_golay.md R113). For each
data half `u` only `u ++ (syn XOR p(u))` has that syndrome, so those are the patterns looked through (log 9). -/
def golayError (b : List (BitVec 12)) (syn : BitVec 12) : Option (BitVec 24) :=
  ((lowWeight 12 3).map fun n =>
    let u := BitVec.ofNat 12 n
    u ++ (syn ^^^ parityMap b u)).find? fun e => decide (popcount e ≤ 3)

/-- What the decoder map answers: the data, whether the word was correctable, the error count (42_golay.md R113). -/
structure GolayDecoded where
  data : BitVec 12
  ok : Bool
  nerr : BitVec 8
  deriving DecidableEq, Repr

/-- The decoder map `D`, a bounded-distance decoder of radius 3 (42_golay.md R113). -/
def golayDecode (b : List (BitVec 12)) (r : BitVec 24) : GolayDecoded :=
  match golayError b (golaySyndrome b r) with
  | some e => { data := golayDataHalf (r ^^^ e), ok := true, nerr := BitVec.ofNat 8 (popcount e) }
  | none => { data := golayDataHalf r, ok := false, nerr := 4 }

/-- The three received words of a 72-bit integer, `H[71-24i : 48-24i]` (42_golay.md R119, 44_mpdu_header.md R154). -/
def word72 (h : BitVec 72) (i : Nat) : BitVec 24 := h.extractLsb' (48 - 24 * i) 24

/-- GOLAY_ENC (42_golay.md R114). -/
def execGolayEnc (s : State) : Host.Outcome State Fault Refusal :=
  runCommand s fun s => s.reply ((golayEncode s.params.golayB (opaGolayData s)).setWidth 32) 0 []

/-- GOLAY_DEC (42_golay.md R115). -/
def execGolayDec (s : State) : Host.Outcome State Fault Refusal :=
  runCommand s fun s =>
    let d := golayDecode s.params.golayB (opaGolayWord s)
    s.reply (d.data.setWidth 32) (packGolayDec d.ok d.nerr) []

/-- GOLAY3_ENC (42_golay.md R118). -/
def execGolay3Enc (s : State) : Host.Outcome State Fault Refusal :=
  runCommand s fun s =>
    let c := golayEncode s.params.golayB (opaGolayData s)
    s.reply (c.setWidth 32) 0 (octets72 (c ++ c ++ c))

/-- GOLAY3_DEC (42_golay.md R119). -/
def execGolay3Dec (s : State) : Host.Outcome State Fault Refusal :=
  runCommand s fun s =>
    if s.input.length ≠ 9 then s.raise .badFormat
    else
      let h := be72 s.input
      let d0 := golayDecode s.params.golayB (word72 h 0)
      let d1 := golayDecode s.params.golayB (word72 h 1)
      let d2 := golayDecode s.params.golayB (word72 h 2)
      s.reply ((maj d0.data d1.data d2.data).setWidth 32)
        (packGolay3Dec d0.nerr d1.nerr d2.nerr d0.ok d1.ok d2.ok (voteValid d0.ok d1.ok d2.ok)) []

end Sys2Proof.Machine
end

