-- ==== Sys2Proof/Machine/Header.lean ====
section
/-!
DEFINITION. The MPDU header codec (44_mpdu_header.md R150 to R157): HDR_ENC, HDR_DEC.
-/

namespace Sys2Proof.Machine

/-- The five logical fields of a header (44_mpdu_header.md R150). -/
structure HeaderFields where
  rf : BitVec 3
  ec : BitVec 6
  cfi : BitVec 7
  upl : BitVec 12
  upfi : BitVec 8
  deriving DecidableEq, Repr

/-- `I36 = rf << 33 | ec << 27 | cfi << 20 | upl << 8 | upfi` (44_mpdu_header.md R150). -/
def infoWord (h : HeaderFields) : BitVec 36 := h.rf ++ h.ec ++ h.cfi ++ h.upl ++ h.upfi

/-- The fields of an information word (44_mpdu_header.md R150). -/
def infoFields (i : BitVec 36) : HeaderFields :=
  { rf := i.extractLsb' 33 3, ec := i.extractLsb' 27 6, cfi := i.extractLsb' 20 7, upl := i.extractLsb' 8 12,
    upfi := i.extractLsb' 0 8 }

/-- The nine header octets: three 12-bit groups, each Golay-encoded once, big-endian (44_mpdu_header.md R151). -/
def headerOctets (b : List (BitVec 12)) (h : HeaderFields) : Bytes :=
  let i := infoWord h
  octets72 (golayEncode b (i.extractLsb' 24 12) ++ golayEncode b (i.extractLsb' 12 12)
    ++ golayEncode b (i.extractLsb' 0 12))

/-- The header as it is sent: Data Field 1 (128) before it when the option is set (44_mpdu_header.md R152, R153). -/
def headerEncode (b : List (BitVec 12)) (df1 : Bool) (h : HeaderFields) : Bytes :=
  if df1 then 0x80 :: headerOctets b h else headerOctets b h

/-- What the header decoder reports (44_mpdu_header.md R154). -/
structure HeaderDecoded where
  fields : HeaderFields
  ok0 : Bool
  ok1 : Bool
  ok2 : Bool
  uhf : BitVec 8
  deriving DecidableEq, Repr

/-- `valid = ok_0 AND ok_1 AND ok_2` (44_mpdu_header.md R155). -/
def headerValid (h : HeaderDecoded) : Bool := h.ok0 && h.ok1 && h.ok2

/-- The header of `x`, whose octets after Data Field 1 and the nine header octets are ignored (44_mpdu_header.md R154). -/
def headerDecode (b : List (BitVec 12)) (df1 : Bool) (x : Bytes) : HeaderDecoded :=
  let h := be72 ((x.drop df1.toNat).take hdrLen)
  let g0 := golayDecode b (word72 h 0)
  let g1 := golayDecode b (word72 h 1)
  let g2 := golayDecode b (word72 h 2)
  { fields := infoFields (g0.data ++ g1.data ++ g2.data), ok0 := g0.ok, ok1 := g1.ok, ok2 := g2.ok,
    uhf := if df1 then x.headD 0 else 0 }

/-- `RES0` of HDR_DEC and RX_FRAME: `HPACK_A` of the decoded fields (30_encoding.md R65). -/
def headerRes0 (h : HeaderDecoded) : Word := hpackA h.fields.cfi h.fields.upl h.fields.upfi

/-- `RES1` of HDR_DEC and RX_FRAME: `HPACK_B` of the decoded fields and a kind (30_encoding.md R65). -/
def headerRes1 (h : HeaderDecoded) (kind : FrameKind) : Word :=
  hpackB h.fields.ec h.fields.rf (headerValid h) h.ok0 h.ok1 h.ok2 h.uhf (kindCode kind)

/-- HDR_ENC (44_mpdu_header.md R153): `ec` is carried raw and not looked up. -/
def execHdrEnc (ec : BitVec 6) (rf : BitVec 3) (df1 : Bool) (s : State) : Host.Outcome State Fault Refusal :=
  runCommand s fun s =>
    s.reply 0 0 (headerEncode s.params.golayB df1
      { rf := rf, ec := ec, cfi := opaCfi s, upl := opaUpl s, upfi := opaUpfi s })

/-- HDR_DEC (44_mpdu_header.md R154): the fields are reported even when the header is invalid; `kind` is 0. -/
def execHdrDec (df1 : Bool) (s : State) : Host.Outcome State Fault Refusal :=
  runCommand s fun s =>
    if s.input.length < hdrLen + df1.toNat then s.raise .badFormat
    else
      let h := headerDecode s.params.golayB df1 s.input
      s.reply (headerRes0 h) (headerRes1 h .fragmentAccepted) []

end Sys2Proof.Machine
end

