-- ==== Sys2Proof/Machine/Framer.lean ====
section
/-!
DEFINITION. The MPDU framer and reassembly (45_mpdu_framer.md R165 to R182): FRAME_COUNT, TX_PACKET, RX_FRAME, RX_DROP,
RX_FLUSH.
-/

namespace Sys2Proof.Machine

/-! ### Geometry (45_mpdu_framer.md R165, R166) -/

/-- `k(s)`: fragments per codeword. -/
def fragsPerCodeword (p : Params) (c : Scheme) : Nat := numFrags p c mtu

/-- `nc(s, P) = max(1, ceil(8 P / m(s)))`: codewords per user packet. -/
def codewordCount (p : Params) (c : Scheme) (len : Nat) : Nat := max 1 (ceilDiv (8 * len) (messageBits p c))

/-- `N(s, P) = nc(s, P) * k(s)`: frames per user packet. -/
def frameTotal (p : Params) (c : Scheme) (len : Nat) : Nat := codewordCount p c len * fragsPerCodeword p c

/-- `mB = m(s) / 8`: message block octets (45_mpdu_framer.md R168). -/
def blockOctets (p : Params) (c : Scheme) : Nat := messageBits p c / 8

/-- The codecs that exist: the R=1/2 convolutional codec and the NO_FEC identity (45_mpdu_framer.md R166). -/
inductive FrameCodec where
  | convolutional | identity
  deriving DecidableEq, Repr

/-- The codec of a scheme in `IMPL`; `none` for every other scheme (45_mpdu_framer.md R166). -/
def frameCodec : Scheme → Option FrameCodec
  | .conv .r12 => some .convolutional
  | .noFec => some .identity
  | .conv .r23 | .conv .r34 | .conv .r56 | .conv .r78 => none
  | .reedSolomon _ _ => none
  | .turbo _ _ => none
  | .orangeBook _ => none
  | .qcLdpc _ _ => none

/-! ### Transmit path (45_mpdu_framer.md R168 to R170) -/

/-- `block(X, j)`: octets `[j mB, (j+1) mB)` of the packet, zero-padded to `mB` (45_mpdu_framer.md R168). -/
def messageBlock (p : Params) (c : Scheme) (x : Bytes) (j : Nat) : Bytes :=
  padOctets (blockOctets p c) ((x.drop (j * blockOctets p c)).take (blockOctets p c))

/-- `Enc(s, b)`: the codeword octets of a message block (45_mpdu_framer.md R169). -/
def encodeBlock (p : Params) (c : Scheme) (cdc : FrameCodec) (b : Bytes) : Bytes :=
  match cdc with
  | .identity => b
  | .convolutional =>
    let v := convBits p.polyOrder (bits8 b ++ List.replicate (codewordBits p c / 2 - messageBits p c) false)
    padOctets (codewordOctets p c) (pack8 v)

/-- Fragment `i` of the codeword octets `w`, padded to whole fragments (45_mpdu_framer.md R170). -/
def fragment (p : Params) (c : Scheme) (w : Bytes) (i : Nat) : Bytes :=
  ((padOctets (fragsPerCodeword p c * mtu) w).drop (i * mtu)).take mtu

/-- The header of the frame with fragment `i` of codeword `j` of a packet of `len` octets (45_mpdu_framer.md R170). -/
def frameHeader (ec : BitVec 6) (rf : BitVec 3) (len j i : Nat) : HeaderFields :=
  { rf := rf, ec := ec, cfi := BitVec.ofNat 7 i, upl := BitVec.ofNat 12 len, upfi := BitVec.ofNat 8 j }

/-- The frames of codeword `j`, ascending `cfi` (45_mpdu_framer.md R170). -/
def codewordFrames (p : Params) (c : Scheme) (cdc : FrameCodec) (ec : BitVec 6) (rf : BitVec 3) (df1 : Bool) (x : Bytes)
    (j : Nat) : List Bytes :=
  let w := encodeBlock p c cdc (messageBlock p c x j)
  (List.range (fragsPerCodeword p c)).map fun i =>
    headerEncode p.golayB df1 (frameHeader ec rf x.length j i) ++ fragment p c w i

/-- The frames of a user packet, ascending `(upfi, cfi)` (45_mpdu_framer.md R170, 20_memory.md R54). -/
def packetFrames (p : Params) (c : Scheme) (cdc : FrameCodec) (ec : BitVec 6) (rf : BitVec 3) (df1 : Bool) (x : Bytes) :
    List Bytes :=
  (List.range (codewordCount p c x.length)).flatMap (codewordFrames p c cdc ec rf df1 x)

/-- Octets per frame: 128, or 129 with Data Field 1 (00_scope.md R7). -/
def frameOctets (df1 : Bool) : Nat := mpduLen + df1.toNat

/-! ### Receive path (45_mpdu_framer.md R171 to R178) -/

/-- `Dec(s, w)`: the message octets of the codeword octets `w` (45_mpdu_framer.md R171). -/
def decodeBlock (p : Params) (c : Scheme) (cdc : FrameCodec) (w : Bytes) : Bytes :=
  match cdc with
  | .identity => w.take (blockOctets p c)
  | .convolutional =>
    let u := viterbi p.polyOrder p.tbStart ((bits8 w).take (2 * (codewordBits p c / 2)))
    pack8 (u.take (messageBits p c))

/-- Fragment `i` of codeword `upfi` in a context's `frag` map. -/
def storedFragment (m : List (Slot × Bytes)) (upfi : BitVec 8) (i : Nat) : Option Bytes :=
  if i < 128 then mapLookup slotCode { upfi := upfi, cfi := BitVec.ofNat 7 i } m else none

/-- The message octets of codeword `j` in a context's `dec` map. -/
def storedMessage (m : List (BitVec 8 × Bytes)) (j : Nat) : Option Bytes :=
  if j < 256 then mapLookup decCode (BitVec.ofNat 8 j) m else none

/-- The codeword octets of `upfi`, when every slot of it is filled (45_mpdu_framer.md R172, R174). -/
def storedCodeword (p : Params) (c : Scheme) (m : List (Slot × Bytes)) (upfi : BitVec 8) : Option Bytes :=
  (gather (storedFragment m upfi) (fragsPerCodeword p c)).map (·.take (codewordOctets p c))

/-- The user packet, when every codeword of it is decoded (45_mpdu_framer.md R175). -/
def storedPacket (p : Params) (c : Scheme) (upl : BitVec 12) (m : List (BitVec 8 × Bytes)) : Option Bytes :=
  (gather (storedMessage m) (codewordCount p c upl.toNat)).map (·.take upl.toNat)

/-- A context after a fragment is written into its slot, before any decoding (45_mpdu_framer.md R174). -/
def putFragment (x : Context) (slot : Slot) (payload : Bytes) : Context :=
  { x with frag := mapInsert slotCode slot payload x.frag }

/-- A context after codeword `upfi` is decoded from its current slots, if they are all filled (45_mpdu_framer.md R174). -/
def decodeCodeword (p : Params) (c : Scheme) (cdc : FrameCodec) (upfi : BitVec 8) (x : Context) : Context :=
  match storedCodeword p c x.frag upfi with
  | some w => { x with dec := mapInsert decCode upfi (decodeBlock p c cdc w) x.dec }
  | none => x

/-- `REASM` holds as many contexts as it may (45_mpdu_framer.md R178; log 11). -/
def reasmFull (p : Params) (n : Nat) : Bool :=
  match p.reasmCtxMax with
  | none => false
  | some m => decide (m ≤ n)

/-- The context of a key: the open one, or a new empty one if there is room (45_mpdu_framer.md R172, R173, R178). -/
def openContext (s : State) (key : CtxKey) : Option Context :=
  match mapLookup ctxCode key s.reasm with
  | some x => some x
  | none => if reasmFull s.params s.reasm.length then none else some emptyContext

/-- RX_FRAME refuses a frame: the decoded header fields and the kind in the results, `REASM` unchanged
(45_mpdu_framer.md R172, 60_exceptions.md R191). -/
def rxReject (s : State) (h : HeaderDecoded) (kind : FrameKind) (e : Status) : State :=
  s.raiseWith e (headerRes0 h) (headerRes1 h kind)

/-- The state in which a Viterbi decode has used the scratch, if one was run (10_state.md R29). -/
def scratchAfterStore (p : Params) (c : Scheme) (cdc : FrameCodec) (x : Context) (upfi : BitVec 8) (s : State) : State :=
  match cdc, storedCodeword p c x.frag upfi with
  | .convolutional, some _ => s.leaveScratch
  | _, _ => s

/-- RX_FRAME stores an accepted fragment in the context `x` of its key, decodes the codeword it completes, and delivers
the packet it completes (45_mpdu_framer.md R172, R174, R175). -/
def rxStore (s : State) (h : HeaderDecoded) (c : Scheme) (cdc : FrameCodec) (x : Context) (payload : Bytes) : State :=
  let key : CtxKey := { upl := h.fields.upl, ec := h.fields.ec }
  let x1 := putFragment x { upfi := h.fields.upfi, cfi := h.fields.cfi } payload
  let x2 := decodeCodeword s.params c cdc h.fields.upfi x1
  let s1 := scratchAfterStore s.params c cdc x1 h.fields.upfi s
  match storedPacket s.params c h.fields.upl x2.dec with
  | some packet =>
    s.finish (s1.setReasm (mapErase ctxCode key s.reasm)) (headerRes0 h) (headerRes1 h .packetReady) packet
  | none =>
    s.finish (s1.setReasm (mapInsert ctxCode key x2 s.reasm)) (headerRes0 h) (headerRes1 h .fragmentAccepted) []

/-! ### Commands -/

/-- FRAME_COUNT (45_mpdu_framer.md R167). -/
def execFrameCount (ec : BitVec 6) (s : State) : Host.Outcome State Fault Refusal :=
  runCommand s fun s =>
    match schemeOf s.params ec with
    | none => s.raise .invalidScheme
    | some c => s.reply (BitVec.ofNat 32 (frameTotal s.params c (opaPacketLength s))) 0 []

/-- TX_PACKET (45_mpdu_framer.md R170). -/
def execTxPacket (ec : BitVec 6) (rf : BitVec 3) (df1 : Bool) (s : State) : Host.Outcome State Fault Refusal :=
  runCommand s fun s =>
    match schemeOf s.params ec with
    | none => s.raise .invalidScheme
    | some c =>
      match frameCodec c with
      | none => s.raise .notImplemented
      | some cdc =>
        let len := s.input.length
        if 4095 < len ∨ 256 < codewordCount s.params c len ∨ 128 < fragsPerCodeword s.params c then s.raise .badFormat
        else if !ioFits s.params (frameTotal s.params c len * frameOctets df1) then s.raise .badFormat
        else s.reply (BitVec.ofNat 32 (frameTotal s.params c len)) (BitVec.ofNat 32 (frameOctets df1))
          (packetFrames s.params c cdc ec rf df1 s.input).flatten

/-- RX_FRAME (45_mpdu_framer.md R172). -/
def execRxFrame (df1 : Bool) (s : State) : Host.Outcome State Fault Refusal :=
  runCommand s fun s =>
    if s.input.length ≠ frameOctets df1 then
      s.raiseWith .badFormat 0 (hpackB 0 0 false false false false 0 (kindCode .rejected))
    else
      let h := headerDecode s.params.golayB df1 s.input
      if !headerValid h then rxReject s h .headerInvalid .headerCorrupt
      else
        match schemeOf s.params h.fields.ec with
        | none => rxReject s h .rejected .invalidScheme
        | some c =>
          match frameCodec c with
          | none => rxReject s h .rejected .notImplemented
          | some cdc =>
            if fragsPerCodeword s.params c ≤ h.fields.cfi.toNat
                ∨ codewordCount s.params c h.fields.upl.toNat ≤ h.fields.upfi.toNat then
              rxReject s h .rejected .badFormat
            else
              match openContext s { upl := h.fields.upl, ec := h.fields.ec } with
              | none => rxReject s h .rejected .reassemblyFull
              | some x => rxStore s h c cdc x (s.input.drop (hdrLen + df1.toNat))

/-- RX_DROP (45_mpdu_framer.md R179): `ec` is a raw key, not looked up. -/
def execRxDrop (ec : BitVec 6) (s : State) : Host.Outcome State Fault Refusal :=
  runCommand s fun s =>
    let key : CtxKey := { upl := opaDropUpl s, ec := ec }
    match mapLookup ctxCode key s.reasm with
    | some _ => s.finish (s.setReasm (mapErase ctxCode key s.reasm)) 1 0 []
    | none => s.reply 0 0 []

/-- RX_FLUSH (45_mpdu_framer.md R180). -/
def execRxFlush (s : State) : Host.Outcome State Fault Refusal :=
  runCommand s fun s => s.finish (s.setReasm []) (BitVec.ofNat 32 s.reasm.length) 0 []

end Sys2Proof.Machine
end

