-- ==== Sys2Proof/Machine/Ppdu.lean ====
section
/-!
DEFINITION. The PPDU bit-packer (41_ppdu.md R100 to R104): PPDU_REPACK.
-/

namespace Sys2Proof.Machine

/-- The `L` bits of a PPDU in form `t` (41_ppdu.md R102). -/
def ppduBits (t l : Nat) (x : Bytes) : Bits := (unpackForm t x).take l

/-- Every octet is below `2^t` (41_ppdu.md R102). -/
def octetsBelow (t : Nat) (x : Bytes) : Bool := x.all fun o => decide (o.toNat < 2 ^ t)

/-- PPDU_REPACK (41_ppdu.md R102). -/
def execPpduRepack (st dt : BitVec 4) (s : State) : Host.Outcome State Fault Refusal :=
  runCommand s fun s =>
    if !(tagSupported st.toNat && tagSupported dt.toNat) then s.raise .badFormat
    else if s.input.length ≠ ceilDiv (opaBitLength s) st.toNat then s.raise .badFormat
    else if !octetsBelow st.toNat s.input then s.raise .badFormat
    else s.reply (BitVec.ofNat 32 (opaBitLength s)) 0
      (packForm dt.toNat (ppduBits st.toNat (opaBitLength s) s.input))

end Sys2Proof.Machine
end

