-- ==== Sys2Proof/Machine/Dispatch.lean ====
section
/-!
DEFINITION. The dispatch: one arm per command, each one call of its meaning.
-/

namespace Sys2Proof.Machine

def exec (i : Instr) (s : State) : Host.Outcome State Fault Refusal :=
  match i with
  | .golayEnc => Sys2Proof.Machine.execGolayEnc s
  | .golayDec => Sys2Proof.Machine.execGolayDec s
  | .golay3Enc => Sys2Proof.Machine.execGolay3Enc s
  | .golay3Dec => Sys2Proof.Machine.execGolay3Dec s
  | .convInit ec => Sys2Proof.Machine.execConvInit ec s
  | .convEnc => Sys2Proof.Machine.execConvEnc s
  | .vitDec => Sys2Proof.Machine.execVitDec s
  | .ppduRepack st dt => Sys2Proof.Machine.execPpduRepack st dt s
  | .schemeValid => Sys2Proof.Machine.execSchemeValid s
  | .schemeRate ec => Sys2Proof.Machine.execSchemeRate ec s
  | .schemeCwBits ec => Sys2Proof.Machine.execSchemeCwBits ec s
  | .schemeMsgBits ec => Sys2Proof.Machine.execSchemeMsgBits ec s
  | .schemeNumFrags ec => Sys2Proof.Machine.execSchemeNumFrags ec s
  | .hdrEnc ec rf df1 => Sys2Proof.Machine.execHdrEnc ec rf df1 s
  | .hdrDec df1 => Sys2Proof.Machine.execHdrDec df1 s
  | .frameCount ec => Sys2Proof.Machine.execFrameCount ec s
  | .txPacket ec rf df1 => Sys2Proof.Machine.execTxPacket ec rf df1 s
  | .rxFrame df1 => Sys2Proof.Machine.execRxFrame df1 s
  | .rxDrop ec => Sys2Proof.Machine.execRxDrop ec s
  | .rxFlush => Sys2Proof.Machine.execRxFlush s

end Sys2Proof.Machine
end

