-- ==== Sys2Proof/Machine/Step.lean ====
section
/-!
DEFINITION. One step of the core: the command the host presented in `CMD` runs to completion (00_scope.md R5,
70_reset_and_hazards.md R214), and `State.withFetchWord`, the host's write of a command word.
-/

namespace Sys2Proof.Machine

/-- One step: the core decodes `CMD` and runs the command to completion. A word that fails a decode check ends with
BadFormat (30_encoding.md R63, R67). An instance whose parameters break their constraints has no specified command and
is refused (70_reset_and_hazards.md R211; log 7). -/
def step (s : State) : Host.Outcome State Fault Refusal :=
  if legalParams s.params then
    match decode s.cmd with
    | .command i => exec i s
    | .rejected _ => .next (s.raise .badFormat)
  else .refused .illegalInstance

/-- The host writes `w` into `CMD`, from which the next step decodes (10_state.md R20; log 6). -/
def State.withFetchWord (s : State) (nbits w : Nat) : State := { s with cmd := BitVec.ofNat 32 (w % 2 ^ nbits) }

end Sys2Proof.Machine
end

