-- ==== Sys2Proof/Safety.lean ====
section
/-!
DEFINITION. What counts as a good state of the core, in the terms the claims use: the invariant of a run, the feeding of
frames to the receiver, and the cutting of TX_PACKET's output into frames.
-/

namespace Sys2Proof.Machine

/-- The values `STATUS` may hold: 5 is never raised and 7 to 15 are never written (60_exceptions.md R190, R197). -/
abbrev StatusLegal (st : BitVec 4) : Prop := st ∈ ([0, 1, 2, 3, 4, 6] : List (BitVec 4))

/-- The legal values of `CODEC`: `INIT = 0`, or `INIT = 1` with `SCHEME = EC_CODE(CCSDS_CONVOLUTIONAL_CODING_R_1_2)`
(10_state.md R24). -/
abbrev CodecLegal (p : Params) (c : BitVec 7) : Prop :=
  codecInit c = true → schemeOf p (codecScheme c) = some (.conv .r12)

/-- What an open context of key `key` is like: its scheme has a codec, its slots are in range (45_mpdu_framer.md R172),
`dec` holds exactly the decodings of the codewords whose slots are all filled, from their current slots (R174), and the
packet is not complete, or it would have been delivered and the context deleted (R175). -/
structure ContextLegal (p : Params) (key : CtxKey) (x : Context) : Prop where
  scheme : ∃ c cdc, schemeOf p key.ec = some c ∧ frameCodec c = some cdc ∧
    (∀ f ∈ x.frag, f.1.cfi.toNat < fragsPerCodeword p c ∧ f.1.upfi.toNat < codewordCount p c key.upl.toNat) ∧
    (∀ j : BitVec 8, mapLookup decCode j x.dec = (storedCodeword p c x.frag j).map (decodeBlock p c cdc)) ∧
    storedPacket p c key.upl x.dec = none
  nonempty : x.frag ≠ []

/-- The number of contexts never exceeds `REASM_CTX_MAX` (10_state.md R27, 45_mpdu_framer.md R178). -/
abbrev CtxCountOk (p : Params) (n : Nat) : Prop := ∀ m, p.reasmCtxMax = some m → n ≤ m

/-- The invariant of a run: a legal instance (70_reset_and_hazards.md R211), a legal `STATUS` and `CODEC`, results that
fit `IO_MAX` (10_state.md R20), `REASM` in canonical form, within its capacity, with every context legal. -/
structure Inv (s : State) : Prop where
  legal : legalParams s.params = true
  status : StatusLegal s.status
  out : ioFits s.params s.out.length = true
  codec : CodecLegal s.params s.codec
  wf : ReasmWf s.reasm
  capacity : CtxCountOk s.params s.reasm.length
  contexts : ∀ e ∈ s.reasm, ContextLegal s.params e.1 e.2

/-- The state with `IN` presented by the host (10_state.md R20). -/
def withInput (s : State) (x : Bytes) : State := { s with input := x }

/-- RX_FRAME run on each of a list of frames in turn; `none` if one of them had no next state. -/
def receiveAll (df1 : Bool) : State → List Bytes → Option State
  | s, [] => some s
  | s, f :: fs =>
    match exec (.rxFrame df1) (withInput s f) with
    | .next t => receiveAll df1 t fs
    | _ => none

/-- The first `count` pieces of `size` octets of `x`: the host's cutting of TX_PACKET's `OUT` into frames
(45_mpdu_framer.md R170: "`OUT` is the frames concatenated, each `RES1` octets long"). -/
def cutFrames (size : Nat) : Nat → Bytes → List Bytes
  | 0, _ => []
  | count + 1, x => x.take size :: cutFrames size count (x.drop size)

/-- `kind` of RX_FRAME's `RES1`, bits 22:21 (30_encoding.md R65). -/
def res1Kind (s : State) : BitVec 2 := s.res1.extractLsb' 21 2

end Sys2Proof.Machine
end

