-- ==== Sys2Proof/Certificates/Slice0/Obligations.lean ====
section
/-!
DEFINITION. The statements about the core. Each says in its docstring which rule of spec/ it comes from. Every statement
about a command holds for every legal value of the instance parameters (they are part of the state). A next state is
written out as a record update of the state before, which is the frame: every field not named is unchanged.
-/

open Sys2Proof Sys2Proof.Machine

/-! ### Encoding and decoding -/

/-- 30_encoding.md R60, R66: decoding the word of any command, with any operands, gives that command back. -/
def Obligations.DecodeOfEncodeIsTheCommand : Prop :=
  ∀ i : Instr, decode (encode i) = .command i

/-- 30_encoding.md R60, R63: a word that decodes to a command is that command's word; no two words share a meaning. -/
def Obligations.EncodeOfDecodeIsTheWord : Prop :=
  ∀ (w : Word) (i : Instr), decode w = .command i → encode i = w

/-- 30_encoding.md R66: a word decodes to the command of the one row it selects by mask and match, and every word that
selects a row decodes to a command. -/
def Obligations.DecoderAgreesWithOpcodeMap : Prop :=
  ∀ w : Word,
    (∀ i, decode w = .command i →
      ∃ r ∈ opcodeTable, r.mnemonic = mnemonic i ∧ ∀ r' ∈ opcodeTable, (w &&& r'.mask = r'.bits ↔ r' = r)) ∧
    ((∃ r ∈ opcodeTable, w &&& r.mask = r.bits) → ∃ i, decode w = .command i)

/-- 30_encoding.md R63: which of the three checks rejects a word, in their order: reserved bits, then an opcode that is
not one of the twenty, then a nonzero field the opcode does not use. -/
def Obligations.RejectionsFollowTheThreeChecks : Prop :=
  ∀ w : Word,
    (decode w = .rejected .reservedBits ↔ w.extractLsb' 26 6 ≠ 0) ∧
    (decode w = .rejected .unassignedOpcode ↔
      w.extractLsb' 26 6 = 0 ∧ (w.extractLsb' 0 8).toNat ∉
        [0x01, 0x02, 0x03, 0x04, 0x10, 0x11, 0x12, 0x20, 0x30, 0x31, 0x32, 0x33, 0x34, 0x40, 0x41, 0x50, 0x51, 0x52,
          0x53, 0x54]) ∧
    (decode w = .rejected .unusedField ↔
      w.extractLsb' 26 6 = 0 ∧ (∃ r ∈ opcodeTable, r.bits.extractLsb' 0 8 = w.extractLsb' 0 8) ∧
        ¬ ∃ r ∈ opcodeTable, w &&& r.mask = r.bits)

/-- 30_encoding.md R71: the thirteen example command words decode as the table says. -/
def Obligations.EncodingExamplesDecode : Prop :=
  decode 0x00000001 = .command .golayEnc ∧
  decode 0x00000010 = .command (.convInit 0) ∧
  decode 0x00003010 = .command (.convInit 48) ∧
  decode 0x02040020 = .command (.ppduRepack 8 1) ∧
  decode 0x00600020 = .command (.ppduRepack 1 8) ∧
  decode 0x0000F040 = .command (.hdrEnc 48 3 false) ∧
  decode 0x00020041 = .command (.hdrDec true) ∧
  decode 0x00004051 = .command (.txPacket 0 1 false) ∧
  decode 0x0000F051 = .command (.txPacket 48 3 false) ∧
  decode 0x00000052 = .command (.rxFrame false) ∧
  decode 0x00020052 = .command (.rxFrame true) ∧
  decode 0x00002C50 = .command (.frameCount 44) ∧
  decode 0x00000433 = .command (.schemeMsgBits 4)

/-! ### The step, reset, and the rules that hold of every command -/

/-- 00_scope.md R5, 30_encoding.md R63: on a legal instance, when `CMD` decodes to a command, the step is that command's
execution at that state, with nothing around it. -/
def Obligations.StepRunsTheDecodedCommand : Prop :=
  ∀ (s : State) (i : Instr), legalParams s.params = true → decode s.cmd = .command i → step s = exec i s

/-- 30_encoding.md R67: a reserved word, of any of its three kinds, completes with BadFormat (3) and changes nothing but
the results. -/
def Obligations.ReservedWordCompletesWithBadFormat : Prop :=
  ∀ s : State, legalParams s.params = true →
    (s.cmd.extractLsb' 26 6 ≠ 0 ∨
      (∃ r ∈ ([(0x00, 0x00), (0x05, 0x0F), (0x13, 0x1F), (0x21, 0x2F), (0x35, 0x3F), (0x42, 0x4F), (0x55, 0xFF)] :
          List (Nat × Nat)), r.1 ≤ (s.cmd.extractLsb' 0 8).toNat ∧ (s.cmd.extractLsb' 0 8).toNat ≤ r.2) ∨
      ∃ r ∈ opcodeTable, r.bits.extractLsb' 0 8 = s.cmd.extractLsb' 0 8 ∧ s.cmd &&& r.mask ≠ r.bits) →
    step s = .next { s with status := 3, res0 := 0, res1 := 0, out := [] }

/-- 00_scope.md R16: every command, and on a legal instance every command word, ends with exactly one of the statuses of
60_exceptions.md R190; 5 (CodewordUndecodable) is never among them. -/
def Obligations.EveryCommandEndsWithOneStatus : Prop :=
  (∀ (i : Instr) (s : State), ∃ t, exec i s = .next t ∧ t.status ∈ ([0, 1, 2, 3, 4, 6] : List (BitVec 4))) ∧
  ∀ s : State, legalParams s.params = true →
    ∃ t, step s = .next t ∧ t.status ∈ ([0, 1, 2, 3, 4, 6] : List (BitVec 4))

/-- 70_reset_and_hazards.md R211 (the refusal is the model's choice, log 7): a legal instance always has a next state, an
illegal one is refused. -/
def Obligations.OnlyIllegalInstancesAreRefused : Prop :=
  ∀ s : State, (legalParams s.params = true → ∃ t, step s = .next t) ∧
    (legalParams s.params = false → step s = .refused .illegalInstance)

/-- 70_reset_and_hazards.md R210: what reset leaves, for any parameters; and that the model's reset state is the instance
of the default column of 00_scope.md R9, with the rows of 42_golay.md R110 (the model's choice, log 1). -/
def Obligations.ResetLeavesTheStatedValues : Prop :=
  (∀ p : Params,
    let s := State.resetWith p
    s.status = 0 ∧ s.res0 = 0 ∧ s.res1 = 0 ∧ s.out = [] ∧ s.codec.getLsbD 6 = false ∧ s.codec.extractLsb' 0 6 = 0 ∧
      s.reasm = [] ∧ s.params = p) ∧
  State.reset = State.resetWith
    { cmax := 952, convTail := .none, tbStart := .zero, polyOrder := .msbCurrent,
      golayB := [0xDC5, 0xB8B, 0x717, 0xE2D, 0xC5B, 0x8B7, 0x16F, 0x2DD, 0x5B9, 0xB71, 0x6E3, 0xFFE],
      ecCode := (List.range 49).map (BitVec.ofNat 6), reasmCtxMax := none, ioMax := none }

/-- 70_reset_and_hazards.md R212: a warm reset discards every context, clears `CODEC.INIT` and keeps the parameters; and
RX_FLUSH then CONV_INIT with an unassigned code reaches `CODEC.INIT = 0` and an empty `REASM` without one. -/
def Obligations.WarmResetOrFlushAndFailedInitClears : Prop :=
  ∀ s : State,
    (s.warmReset.reasm = [] ∧ s.warmReset.codec.getLsbD 6 = false ∧ s.warmReset.params = s.params ∧
      s.warmReset.status = 0 ∧ s.warmReset.res0 = 0 ∧ s.warmReset.res1 = 0 ∧ s.warmReset.out = []) ∧
    ∀ ec : BitVec 6, ioFits s.params s.input.length = true → schemeOf s.params ec = none →
      ∃ t u, exec .rxFlush s = .next t ∧ exec (.convInit ec) t = .next u ∧
        u.reasm = [] ∧ u.codec.getLsbD 6 = false ∧ u.codec.extractLsb' 0 6 = ec

/-- 10_state.md R32, 70_reset_and_hazards.md R211: which command writes what. No command writes `CMD`, `OPA`, `IN` or the
parameters; CONV_INIT alone writes `CODEC`; only RX_FRAME (and only with status OK), RX_DROP and RX_FLUSH write `REASM`;
only VIT_DEC and RX_FRAME touch the Viterbi scratch. -/
def Obligations.CommandsWriteOnlyTheirOwnState : Prop :=
  ∀ (i : Instr) (s t : State), exec i s = .next t →
    t.cmd = s.cmd ∧ t.opa = s.opa ∧ t.input = s.input ∧ t.params = s.params ∧
    ((∀ ec, i ≠ .convInit ec) → t.codec = s.codec) ∧
    ((∀ d, i ≠ .rxFrame d) → (∀ ec, i ≠ .rxDrop ec) → i ≠ .rxFlush → t.reasm = s.reasm) ∧
    (t.status ≠ 0 → t.reasm = s.reasm) ∧
    (i ≠ .vitDec → (∀ d, i ≠ .rxFrame d) → t.scratch = s.scratch ∧ t.freeIx = s.freeIx)

/-- 60_exceptions.md R191: a command that ends with a status other than OK leaves `OUT` empty, `REASM` and the scratch as
they were, `CODEC` as it was unless it is CONV_INIT, and both results 0 unless it is SCHEME_RATE or RX_FRAME;
SCHEME_RATE's InvalidScheme leaves 13 in `RES0`. -/
def Obligations.ErrorsWriteOnlyTheResults : Prop :=
  ∀ (i : Instr) (s t : State), exec i s = .next t → t.status ≠ 0 →
    t.out = [] ∧ t.reasm = s.reasm ∧ t.scratch = s.scratch ∧ t.freeIx = s.freeIx ∧
    ((∀ ec, i ≠ .convInit ec) → t.codec = s.codec) ∧
    ((∀ ec, i ≠ .schemeRate ec) → (∀ d, i ≠ .rxFrame d) → t.res0 = 0 ∧ t.res1 = 0) ∧
    (∀ ec, i = .schemeRate ec → t.status = 1 → t.res0 = 13 ∧ t.res1 = 0)

/-- 60_exceptions.md R192: an `IN` longer than `IO_MAX` ends every command with BadFormat before any check of its own. -/
def Obligations.OversizeInputIsBadFormat : Prop :=
  ∀ (i : Instr) (s : State) (m : Nat), s.params.ioMax = some m → m < s.input.length →
    exec i s = .next { s with status := 3, res0 := 0, res1 := 0, out := [] }

/-- 70_reset_and_hazards.md R218: the results, `CODEC` and `REASM` after a step are a function of `CMD`, `OPA`, `IN`,
`CODEC`, `REASM` and the parameters: the earlier results, the Viterbi scratch and the free values numbered by `freeIx`
(log 4) do not reach them. A bit count of 2^32 or more, for which the model has a free value beside R218's "no unspecified
result value" (log 16), is a function of the inputs too. -/
def Obligations.ResultsAreAFunctionOfTheInputs : Prop :=
  ∀ s s' t : State, s'.cmd = s.cmd → s'.opa = s.opa → s'.input = s.input → s'.codec = s.codec → s'.reasm = s.reasm →
    s'.params = s.params → step s = .next t →
    ∃ t', step s' = .next t' ∧ t'.status = t.status ∧ t'.res0 = t.res0 ∧ t'.res1 = t.res1 ∧ t'.out = t.out ∧
      t'.codec = t.codec ∧ t'.reasm = t.reasm

/-- 42_golay.md R120, 44_mpdu_header.md R157: the Golay and header commands hold no state. Their results are the same in
any two states that agree on `OPA`, `IN`, `GOLAY_B` and `IO_MAX`. -/
def Obligations.GolayAndHeaderCommandsHoldNoState : Prop :=
  ∀ (i : Instr) (s s' t : State),
    (i = .golayEnc ∨ i = .golayDec ∨ i = .golay3Enc ∨ i = .golay3Dec ∨ (∃ ec rf d, i = .hdrEnc ec rf d) ∨
      ∃ d, i = .hdrDec d) →
    s'.opa = s.opa → s'.input = s.input → s'.params.golayB = s.params.golayB → s'.params.ioMax = s.params.ioMax →
    exec i s = .next t →
    ∃ t', exec i s' = .next t' ∧ t'.status = t.status ∧ t'.res0 = t.res0 ∧ t'.res1 = t.res1 ∧ t'.out = t.out ∧
      t.codec = s.codec ∧ t.reasm = s.reasm

/-- 10_state.md R24, R27, R28; 45_mpdu_framer.md R174, R175, R178; 60_exceptions.md R190: every step keeps the invariant
of a run, from every state that has it. That `REASM` is kept in canonical form is the model's choice (log 12). -/
def Obligations.StepKeepsTheInvariant : Prop :=
  ∀ s t : State, Inv s → step s = .next t → Inv t

/-- 10_state.md R33: the invariant holds right after reset, for every legal instance (the empty `REASM` is in the model's
canonical form, log 12). -/
def Obligations.ResetHasTheInvariant : Prop :=
  ∀ p : Params, legalParams p = true → Inv (State.resetWith p)

/-! ### Golay -/

/-- 42_golay.md R111: the parity map is the linear map whose value on data bit `d[11-i]` is row `B_i`. -/
def Obligations.ParityMapIsLinearOnTheRows : Prop :=
  ∀ b : List (BitVec 12), b.length = 12 →
    parityMap b 0 = 0 ∧
    (∀ d d' : BitVec 12, parityMap b (d ^^^ d') = parityMap b d ^^^ parityMap b d') ∧
    ∀ i row, b[i]? = some row → parityMap b (BitVec.twoPow 12 (11 - i)) = row

/-- 42_golay.md R114: GOLAY_ENC completes with the codeword of `OPA[11:0]` in `RES0`. -/
def Obligations.GolayEncCompletes : Prop :=
  ∀ s : State, ioFits s.params s.input.length = true →
    exec .golayEnc s = .next { s with
      status := 0
      res0 := ((s.opa.extractLsb' 0 12).setWidth 32 <<< 12) |||
        (parityMap s.params.golayB (s.opa.extractLsb' 0 12)).setWidth 32
      res1 := 0
      out := [] }

/-- 42_golay.md R115: GOLAY_DEC completes with the decoded data in `RES0` and `nerr << 8 | ok` in `RES1`. -/
def Obligations.GolayDecCompletes : Prop :=
  ∀ s : State, ioFits s.params s.input.length = true →
    let d := golayDecode s.params.golayB (s.opa.extractLsb' 0 24)
    exec .golayDec s = .next { s with
      status := 0
      res0 := d.data.setWidth 32
      res1 := (d.nerr.setWidth 32 <<< 8) ||| (BitVec.ofBool d.ok).setWidth 32
      out := [] }

/-- 42_golay.md R113: the decoder map. A pattern of at most three ones with the received word's syndrome is corrected and
counted; where there is none, the data half comes back uncorrected with `correctable = 0` and the count 4. -/
def Obligations.GolayDecodeIsBoundedDistance : Prop :=
  ∀ (b : List (BitVec 12)) (r : BitVec 24), golayMatrixOk b = true →
    (∀ e : BitVec 24, popcount e ≤ 3 → golaySyndrome b e = golaySyndrome b r →
      golayDecode b r =
        { data := (r ^^^ e).extractLsb' 12 12, ok := true, nerr := BitVec.ofNat 8 (popcount e) }) ∧
    ((∀ e : BitVec 24, popcount e ≤ 3 → golaySyndrome b e ≠ golaySyndrome b r) →
      golayDecode b r = { data := r.extractLsb' 12 12, ok := false, nerr := 4 })

/-- 42_golay.md R116, first point: under every legal matrix up to three bit errors are corrected. -/
def Obligations.GolayCorrectsUpToThreeErrors : Prop :=
  ∀ (b : List (BitVec 12)) (d : BitVec 12) (e : BitVec 24), golayMatrixOk b = true → popcount e ≤ 3 →
    golayDecode b (golayEncode b d ^^^ e) = { data := d, ok := true, nerr := BitVec.ofNat 8 (popcount e) }

/-- 42_golay.md R116, second point: under every legal matrix exactly four bit errors are detected, and the received data
half comes back (R113). -/
def Obligations.GolayDetectsFourErrors : Prop :=
  ∀ (b : List (BitVec 12)) (d : BitVec 12) (e : BitVec 24), golayMatrixOk b = true → popcount e = 4 →
    golayDecode b (golayEncode b d ^^^ e) =
      { data := (golayEncode b d ^^^ e).extractLsb' 12 12, ok := false, nerr := 4 }

/-- 42_golay.md R118: GOLAY3_ENC completes with the codeword's three octets three times over. -/
def Obligations.Golay3EncCompletes : Prop :=
  ∀ s : State, ioFits s.params s.input.length = true → ioFits s.params 9 = true →
    let c := golayEncode s.params.golayB (s.opa.extractLsb' 0 12)
    let o := [c.extractLsb' 16 8, c.extractLsb' 8 8, c.extractLsb' 0 8]
    exec .golay3Enc s = .next { s with status := 0, res0 := c.setWidth 32, res1 := 0, out := o ++ o ++ o }

/-- 42_golay.md R119: GOLAY3_DEC takes the bitwise majority of the three decoded words, valid when at least two of them
were correctable; any length but nine octets is BadFormat. -/
def Obligations.Golay3DecCompletes : Prop :=
  ∀ s : State, ioFits s.params s.input.length = true →
    (∀ x0 x1 x2 y0 y1 y2 z0 z1 z2 : Byte, s.input = [x0, x1, x2, y0, y1, y2, z0, z1, z2] →
      let d0 := golayDecode s.params.golayB (x0 ++ x1 ++ x2)
      let d1 := golayDecode s.params.golayB (y0 ++ y1 ++ y2)
      let d2 := golayDecode s.params.golayB (z0 ++ z1 ++ z2)
      exec .golay3Dec s = .next { s with
        status := 0
        res0 := ((d0.data &&& d1.data) ||| (d0.data &&& d2.data) ||| (d1.data &&& d2.data)).setWidth 32
        res1 := BitVec.ofNat 32 (d2.nerr.toNat * 2 ^ 24 + d1.nerr.toNat * 2 ^ 16 + d0.nerr.toNat * 2 ^ 8 +
          d2.ok.toNat * 8 + d1.ok.toNat * 4 + d0.ok.toNat * 2 +
          if 2 ≤ d0.ok.toNat + d1.ok.toNat + d2.ok.toNat then 1 else 0)
        out := [] }) ∧
    (s.input.length ≠ 9 → exec .golay3Dec s = .next { s with status := 3, res0 := 0, res1 := 0, out := [] })

/-- 42_golay.md R119: one copy with any errors at all is outvoted by two intact ones, whichever of the three it is. -/
def Obligations.VoterOutvotesOneBadCopy : Prop :=
  ∀ (s t : State) (d : BitVec 12) (w : BitVec 24), golayMatrixOk s.params.golayB = true →
    ioFits s.params s.input.length = true →
    (let c := golayEncode s.params.golayB d
     s.input = octets72 (w ++ c ++ c) ∨ s.input = octets72 (c ++ w ++ c) ∨ s.input = octets72 (c ++ c ++ w)) →
    exec .golay3Dec s = .next t →
    t.status = 0 ∧ t.res0 = d.setWidth 32 ∧ t.res1.getLsbD 0 = true

/-! ### Convolutional codec -/

/-- 43_convolutional.md R130: CONV_INIT, its three outcomes. `CODEC` is written in each of them, and `INIT` is set only
for the R=1/2 scheme. -/
def Obligations.ConvInitWritesTheCodecRegister : Prop :=
  ∀ (s : State) (ec : BitVec 6), ioFits s.params s.input.length = true →
    (schemeOf s.params ec = none →
      exec (.convInit ec) s =
        .next { s with codec := 0#1 ++ ec, status := 1, res0 := 0, res1 := 0, out := [] }) ∧
    (∀ c, schemeOf s.params ec = some c → c ≠ .conv .r12 →
      exec (.convInit ec) s =
        .next { s with codec := 0#1 ++ ec, status := 2, res0 := 0, res1 := 0, out := [] }) ∧
    (schemeOf s.params ec = some (.conv .r12) →
      exec (.convInit ec) s =
        .next { s with codec := 1#1 ++ ec, status := 0, res0 := 0, res1 := 0, out := [] })

/-- 43_convolutional.md R133, R137: on an uninitialised codec CONV_ENC and VIT_DEC answer the sentinel with status OK. -/
def Obligations.UninitialisedCodecAnswersTheSentinel : Prop :=
  ∀ s : State, ioFits s.params s.input.length = true → s.codec.getLsbD 6 = false →
    exec .convEnc s = .next { s with status := 0, res0 := 0xFFFFFFFF, res1 := 0, out := [] } ∧
    exec .vitDec s = .next { s with status := 0, res0 := 0xFFFFFFFF, res1 := 0, out := [] }

/-- 43_convolutional.md R131: one encoder step, tap by tap, in both orders of the polynomials, and the next register. -/
def Obligations.EncoderStepTapsThePolynomials : Prop :=
  ∀ (st : BitVec 6) (b : Bool),
    (encNext st b).toNat = 32 * b.toNat + st.toNat / 2 ∧
    encOutputs .msbCurrent st b =
      (xor b (xor (st.getLsbD 5) (xor (st.getLsbD 4) (xor (st.getLsbD 3) (st.getLsbD 0)))),
        xor b (xor (st.getLsbD 4) (xor (st.getLsbD 3) (xor (st.getLsbD 1) (st.getLsbD 0))))) ∧
    encOutputs .lsbCurrent st b =
      (xor b (xor (st.getLsbD 3) (xor (st.getLsbD 2) (xor (st.getLsbD 1) (st.getLsbD 0)))),
        xor b (xor (st.getLsbD 5) (xor (st.getLsbD 3) (xor (st.getLsbD 2) (st.getLsbD 0)))))

/-- 43_convolutional.md R133, R134; 60_exceptions.md R192: on an initialised codec CONV_ENC completes with the encoding of
`IN` (six zero bits appended under `ZERO6`) and the unpadded bit count in `RES0` (a free value where 32 bits cannot hold
it, log 16); where the encoding is longer than `IO_MAX` it ends with BadFormat (3) and changes nothing but the results. -/
def Obligations.ConvEncCompletes : Prop :=
  ∀ s : State, ioFits s.params s.input.length = true → s.codec.getLsbD 6 = true →
    let tail := if s.params.convTail = .zero6 then 6 else 0
    let v := convBits s.params.polyOrder (bits8 s.input ++ List.replicate tail false)
    let n := 16 * s.input.length + 2 * tail
    v.length = n ∧ (pack8 v).length = (n + 7) / 8 ∧
    (ioFits s.params ((n + 7) / 8) = true →
      exec .convEnc s = .next { s with
        status := 0
        res0 := if n < 2 ^ 32 then BitVec.ofNat 32 n else Config.countTooWide n
        res1 := 0
        out := pack8 v }) ∧
    (ioFits s.params ((n + 7) / 8) = false →
      exec .convEnc s = .next { s with status := 3, res0 := 0, res1 := 0, out := [] })

/-- 43_convolutional.md R136, R137: on an initialised codec VIT_DEC completes whatever `OPA` holds: `RES0 = 0`, the
decoded bit count `max(4 len(IN) - 6, 0)` in `RES1` (a free value where 32 bits cannot hold it, log 16), the packed bits
in `OUT`. Only the scratch (whose contents no rule
gives: a free value, log 4) and the counter of free values change besides. -/
def Obligations.VitDecCompletes : Prop :=
  ∀ s : State, ioFits s.params s.input.length = true → s.codec.getLsbD 6 = true →
    let u := viterbi s.params.polyOrder s.params.tbStart (bits8 s.input)
    let k := 4 * s.input.length - 6
    u.length = k ∧
    ∃ sc n, exec .vitDec s = .next { s with
      status := 0
      res0 := 0
      res1 := if k < 2 ^ 32 then BitVec.ofNat 32 k else Config.countTooWide k
      out := pack8 u
      scratch := sc
      freeIx := n }

/-- 43_convolutional.md R135, R136; 45_mpdu_framer.md R171: without channel errors the Viterbi decoder inverts the
encoder on every terminated input, under every setting of `POLY_ORDER` and `TB_START`. And for any received sequence of
`t` pairs, with any channel errors, it answers all but the last six bits of a path `v` of minimal metric: of the inputs of
`t` bits (under `ZERO` those that end in state 0) none has an encoding nearer to the received sequence. Of two inputs at
the same distance it keeps the one that ends in the lower state, and of two that end in the same state the one that comes
from the lower predecessor where they last part: a predecessor's lowest bit is the input bit `d` that the register is about
to lose. -/
def Obligations.ViterbiInvertsTheTerminatedEncoder : Prop :=
  (∀ (po : PolyOrder) (tb : TbStart) (u : Bits) (n : Nat),
    viterbi po tb (convBits po (u ++ List.replicate (6 + n) false)) = u ++ List.replicate n false) ∧
  ∀ (po : PolyOrder) (tb : TbStart) (t : Nat) (r : Bits), r.length = 2 * t →
    let endState := fun v : Bits => v.foldl encNext 0
    let distance := fun v : Bits => (List.zipWith xor (convBits po v) r).count true
    let admitted := fun v : Bits => v.length = t ∧ (tb = .zero → endState v = 0)
    ∃ v, admitted v ∧ viterbi po tb r = v.take (t - 6) ∧
      ∀ v', admitted v' → distance v ≤ distance v' ∧
        (distance v' = distance v → (endState v).toNat ≤ (endState v').toNat ∧
          (endState v' = endState v → v' ≠ v →
            ∃ d, v.getD d true = false ∧ v'.getD d false = true ∧ v.drop (d + 1) = v'.drop (d + 1)))

/-- 43_convolutional.md R138, first point: under `ZERO6` and `ZERO`, VIT_DEC of CONV_ENC's output for `x` gives `x`
followed by one zero octet, and `RES1 = 8 len(x) + 2` where 32 bits hold that. -/
def Obligations.StandAloneCodecRoundTrip : Prop :=
  ∀ s : State, ioFits s.params (2 * s.input.length + 2) = true → s.codec.getLsbD 6 = true →
    s.params.convTail = .zero6 → s.params.tbStart = .zero →
    ∃ t u, exec .convEnc s = .next t ∧ t.status = 0 ∧ exec .vitDec (withInput t t.out) = .next u ∧
      u.status = 0 ∧ u.res0 = 0 ∧ u.out = s.input ++ [0] ∧
      (8 * s.input.length + 2 < 2 ^ 32 → u.res1 = BitVec.ofNat 32 (8 * s.input.length + 2))

/-! ### PPDU -/

/-- 41_ppdu.md R100, R101: where each bit of the sequence sits in the `t`-bits-per-octet form, and that every other
position holds 0. -/
def Obligations.FormHoldsTheBitsMsbFirst : Prop :=
  ∀ (t : Nat) (s : Bits), t ∈ [1, 2, 4, 8] →
    (packForm t s).length = (s.length + t - 1) / t ∧
    ∀ j o, (packForm t s)[j]? = some o →
      (∀ u, u < t → o.getLsbD (t - 1 - u) = s.getD (j * t + u) false) ∧
      (∀ v, t ≤ v → o.getLsbD v = false)

/-- 41_ppdu.md R102: on a PPDU of a supported tag, with the octet count of its bit length and no octet too large,
PPDU_REPACK completes with the same bits in the other form and the bit length in `RES0`. Bit `i` of them is bit
`st - 1 - (i mod st)` of octet `floor(i / st)` of `IN`. -/
def Obligations.PpduRepackCompletes : Prop :=
  ∀ (s : State) (st dt : BitVec 4), ioFits s.params s.input.length = true →
    st.toNat ∈ [1, 2, 4, 8] → dt.toNat ∈ [1, 2, 4, 8] →
    s.input.length = (s.opa.toNat + st.toNat - 1) / st.toNat → (∀ o ∈ s.input, o.toNat < 2 ^ st.toNat) →
    ioFits s.params ((s.opa.toNat + dt.toNat - 1) / dt.toNat) = true →
    let v := (unpackForm st.toNat s.input).take s.opa.toNat
    v.length = s.opa.toNat ∧
    (∀ i, i < s.opa.toNat →
      v.getD i false = (s.input.getD (i / st.toNat) 0).getLsbD (st.toNat - 1 - i % st.toNat)) ∧
    exec (.ppduRepack st dt) s =
      .next { s with status := 0, res0 := s.opa, res1 := 0, out := packForm dt.toNat v }

/-- 41_ppdu.md R102, 60_exceptions.md R192: what PPDU_REPACK refuses with BadFormat (3), the rest of the state unchanged:
an unsupported tag, an octet count that does not match the bit length, an octet with a bit above the tag's width; and, on
an input that passes these checks, a result longer than `IO_MAX`. -/
def Obligations.PpduRepackRejectsBadInput : Prop :=
  ∀ (s : State) (st dt : BitVec 4), ioFits s.params s.input.length = true →
    ((st.toNat ∉ [1, 2, 4, 8] ∨ dt.toNat ∉ [1, 2, 4, 8] ∨
        s.input.length ≠ (s.opa.toNat + st.toNat - 1) / st.toNat ∨ ∃ o ∈ s.input, 2 ^ st.toNat ≤ o.toNat) →
      exec (.ppduRepack st dt) s = .next { s with status := 3, res0 := 0, res1 := 0, out := [] }) ∧
    (st.toNat ∈ [1, 2, 4, 8] → dt.toNat ∈ [1, 2, 4, 8] →
      s.input.length = (s.opa.toNat + st.toNat - 1) / st.toNat → (∀ o ∈ s.input, o.toNat < 2 ^ st.toNat) →
      ioFits s.params ((s.opa.toNat + dt.toNat - 1) / dt.toNat) = false →
      exec (.ppduRepack st dt) s = .next { s with status := 3, res0 := 0, res1 := 0, out := [] })

/-- 41_ppdu.md R103: repacking to another tag and back returns the input with its pad bits cleared; from tag 8 to tag 1
and back with `L = 8 len(x)` it returns `x`. -/
def Obligations.RepackingIsLossless : Prop :=
  ∀ (s t : State) (st dt : BitVec 4), exec (.ppduRepack st dt) s = .next t → t.status = 0 →
    ∃ u, exec (.ppduRepack dt st) (withInput t t.out) = .next u ∧ u.status = 0 ∧
      u.out = packForm st.toNat ((unpackForm st.toNat s.input).take s.opa.toNat) ∧
      (unpackForm st.toNat u.out).take s.opa.toNat = (unpackForm st.toNat s.input).take s.opa.toNat ∧
      (st = 8 → dt = 1 → s.opa.toNat = 8 * s.input.length → u.out = s.input)

/-! ### Scheme table -/

/-- 40_scheme_table.md R82, R83: the 49 rows at the default parameters, by wire code: codeword bits, message bits, rate
code, codeword octets, fragments of 119 octets; codes 49 to 63 have no row. -/
def Obligations.SchemeTableRows : Prop :=
  ((List.range 64).map fun code =>
    (schemeOf defaultParams (BitVec.ofNat 6 code)).map fun c =>
      (codewordBits defaultParams c, messageBits defaultParams c, (rateCode (schemeRate c)).toNat,
        codewordOctets defaultParams c, numFrags defaultParams c 119)) =
  [ (952, 464, 4, 119, 1), (952, 624, 5, 119, 1), (952, 704, 6, 119, 1), (952, 784, 8, 119, 1),
    (952, 824, 9, 119, 1), (2040, 1912, 10, 255, 3), (4080, 3824, 10, 510, 5), (6120, 5736, 10, 765, 7),
    (8160, 7648, 10, 1020, 9), (10200, 9560, 10, 1275, 11), (16320, 15296, 10, 2040, 18), (2040, 1784, 9, 255, 3),
    (4080, 3568, 9, 510, 5), (6120, 5352, 9, 765, 7), (8160, 7136, 9, 1020, 9), (10200, 8920, 9, 1275, 11),
    (16320, 14272, 9, 2040, 18), (3576, 1784, 4, 447, 4), (5364, 1784, 3, 671, 6), (7152, 1784, 2, 894, 8),
    (10728, 1784, 0, 1341, 12), (7144, 3568, 4, 893, 8), (10716, 3568, 3, 1340, 12), (14288, 3568, 2, 1786, 16),
    (21432, 3568, 0, 2679, 23), (14280, 7136, 4, 1785, 15), (21420, 7136, 3, 2678, 23), (28560, 7136, 2, 3570, 30),
    (42840, 7136, 0, 5355, 45), (17848, 8920, 4, 2231, 19), (26772, 8920, 3, 3347, 29), (35696, 8920, 2, 4462, 38),
    (53544, 8920, 0, 6693, 57), (1280, 1024, 7, 160, 2), (1536, 1024, 5, 192, 2), (2048, 1024, 4, 256, 3),
    (648, 324, 4, 81, 1), (648, 432, 5, 81, 1), (648, 486, 6, 81, 1), (648, 540, 8, 81, 1),
    (1296, 648, 4, 162, 2), (1296, 864, 5, 162, 2), (1296, 972, 6, 162, 2), (1296, 1080, 8, 162, 2),
    (1944, 972, 4, 243, 3), (1944, 1296, 5, 243, 3), (1944, 1458, 6, 243, 3), (1944, 1620, 8, 243, 3),
    (952, 952, 11, 119, 1) ].map some ++ List.replicate 15 none

/-- 40_scheme_table.md R80, R81, R93: under every legal `EC_CODE` the table is exhaustive: every scheme has exactly one
code, code number `i` of `EC_CODE` selects row number `i` of the listing order, and a code that is not in `EC_CODE` selects
none. -/
def Obligations.EverySchemeHasExactlyOneCode : Prop :=
  ∀ p : Params, legalParams p = true →
    (∀ c : Scheme, ∃ ec, schemeOf p ec = some c) ∧
    (∀ (c : Scheme) (ec ec' : BitVec 6), schemeOf p ec = some c → schemeOf p ec' = some c → ec = ec') ∧
    (∀ (i : Nat) (ec : BitVec 6), p.ecCode[i]? = some ec → schemeOf p ec =
      ([.conv .r12, .conv .r23, .conv .r34, .conv .r56, .conv .r78,
        .reedSolomon .rs255k239 .i1, .reedSolomon .rs255k239 .i2, .reedSolomon .rs255k239 .i3,
        .reedSolomon .rs255k239 .i4, .reedSolomon .rs255k239 .i5, .reedSolomon .rs255k239 .i8,
        .reedSolomon .rs255k223 .i1, .reedSolomon .rs255k223 .i2, .reedSolomon .rs255k223 .i3,
        .reedSolomon .rs255k223 .i4, .reedSolomon .rs255k223 .i5, .reedSolomon .rs255k223 .i8,
        .turbo .k1784 .r12, .turbo .k1784 .r13, .turbo .k1784 .r14, .turbo .k1784 .r16,
        .turbo .k3568 .r12, .turbo .k3568 .r13, .turbo .k3568 .r14, .turbo .k3568 .r16,
        .turbo .k7136 .r12, .turbo .k7136 .r13, .turbo .k7136 .r14, .turbo .k7136 .r16,
        .turbo .k8920 .r12, .turbo .k8920 .r13, .turbo .k8920 .r14, .turbo .k8920 .r16,
        .orangeBook .n1280, .orangeBook .n1536, .orangeBook .n2048,
        .qcLdpc .n648 .r12, .qcLdpc .n648 .r23, .qcLdpc .n648 .r34, .qcLdpc .n648 .r56,
        .qcLdpc .n1296 .r12, .qcLdpc .n1296 .r23, .qcLdpc .n1296 .r34, .qcLdpc .n1296 .r56,
        .qcLdpc .n1944 .r12, .qcLdpc .n1944 .r23, .qcLdpc .n1944 .r34, .qcLdpc .n1944 .r56,
        .noFec] : List Scheme)[i]?) ∧
    ∀ ec : BitVec 6, ec ∉ p.ecCode → schemeOf p ec = none

/-- 40_scheme_table.md R93, with the results of R89 to R92, 43_convolutional.md R130, 45_mpdu_framer.md R167, R170 and
60_exceptions.md R191: every lookup of a code that is not assigned ends with InvalidScheme (1), never a default, in each
command that looks a code up in its `EC` field: `RES0` is 13 in SCHEME_RATE and 0 in the others, and CONV_INIT writes
`CODEC`. -/
def Obligations.UnassignedSchemeIsAnError : Prop :=
  ∀ (s : State) (ec : BitVec 6), ioFits s.params s.input.length = true → schemeOf s.params ec = none →
    exec (.schemeRate ec) s = .next { s with status := 1, res0 := 13, res1 := 0, out := [] } ∧
    exec (.convInit ec) s = .next { s with codec := 0#1 ++ ec, status := 1, res0 := 0, res1 := 0, out := [] } ∧
    (∀ i ∈ ([.schemeCwBits ec, .schemeMsgBits ec, .schemeNumFrags ec, .frameCount ec] : List Instr),
      exec i s = .next { s with status := 1, res0 := 0, res1 := 0, out := [] }) ∧
    ∀ (rf : BitVec 3) (df1 : Bool),
      exec (.txPacket ec rf df1) s = .next { s with status := 1, res0 := 0, res1 := 0, out := [] }

/-- 40_scheme_table.md R88: SCHEME_VALID answers 1 for an assigned code, 0 for an unassigned one, and InvalidScheme for a
code of 64 or more. -/
def Obligations.SchemeValidCompletes : Prop :=
  ∀ s : State, ioFits s.params s.input.length = true →
    (∀ ec : BitVec 6, s.opa.toNat = ec.toNat → (∃ c, schemeOf s.params ec = some c) →
      exec .schemeValid s = .next { s with status := 0, res0 := 1, res1 := 0, out := [] }) ∧
    (∀ ec : BitVec 6, s.opa.toNat = ec.toNat → schemeOf s.params ec = none →
      exec .schemeValid s = .next { s with status := 0, res0 := 0, res1 := 0, out := [] }) ∧
    (64 ≤ s.opa.toNat → exec .schemeValid s = .next { s with status := 1, res0 := 0, res1 := 0, out := [] })

/-- 40_scheme_table.md R89, R90, R91: on an assigned code SCHEME_RATE, SCHEME_CW_BITS and SCHEME_MSG_BITS complete with
the row's rate code, codeword bits and message bits. -/
def Obligations.SchemeQueriesComplete : Prop :=
  ∀ (s : State) (ec : BitVec 6) (c : Scheme), ioFits s.params s.input.length = true → schemeOf s.params ec = some c →
    exec (.schemeRate ec) s =
      .next { s with status := 0, res0 := rateCode (schemeRate c), res1 := 0, out := [] } ∧
    exec (.schemeCwBits ec) s =
      .next { s with status := 0, res0 := BitVec.ofNat 32 (codewordBits s.params c), res1 := 0, out := [] } ∧
    exec (.schemeMsgBits ec) s =
      .next { s with status := 0, res0 := BitVec.ofNat 32 (messageBits s.params c), res1 := 0, out := [] }

/-- 40_scheme_table.md R87, R92: on an assigned code SCHEME_NUM_FRAGS completes with `ceil(c / payload)` for a positive
payload, 1 for NO_FEC; a payload of 0 is BadFormat. -/
def Obligations.SchemeNumFragsCompletes : Prop :=
  ∀ (s : State) (ec : BitVec 6) (c : Scheme), ioFits s.params s.input.length = true → schemeOf s.params ec = some c →
    (s.opa ≠ 0 →
      exec (.schemeNumFrags ec) s = .next { s with
        status := 0
        res0 := if c = .noFec then 1
          else BitVec.ofNat 32 ((codewordOctets s.params c + s.opa.toNat - 1) / s.opa.toNat)
        res1 := 0
        out := [] }) ∧
    (s.opa = 0 → exec (.schemeNumFrags ec) s = .next { s with status := 3, res0 := 0, res1 := 0, out := [] })

/-- 40_scheme_table.md R83 to R87, 45_mpdu_framer.md R168, R169: in a legal instance, for every `CMAX`, the geometry of
every row (a convolutional row has `n = CMAX` and `m = floor(CMAX p/q) - 6` floored to whole octets, NO_FEC has both
`8 floor(min(CMAX, 952) / 8)`, a block row does not depend on `CMAX`); every message is nonempty and fits its codeword; the
messages of the two implemented schemes are whole octets, and the convolutional one leaves at least the six tail bits and
needs at most 128 fragments. -/
def Obligations.MessagesFitTheirCodewords : Prop :=
  ∀ p : Params, legalParams p = true →
    (∀ r, codewordBits p (.conv r) = p.cmax) ∧
    messageBits p (.conv .r12) = (p.cmax / 2 - 6) / 8 * 8 ∧
    messageBits p (.conv .r23) = (p.cmax * 2 / 3 - 6) / 8 * 8 ∧
    messageBits p (.conv .r34) = (p.cmax * 3 / 4 - 6) / 8 * 8 ∧
    messageBits p (.conv .r56) = (p.cmax * 5 / 6 - 6) / 8 * 8 ∧
    messageBits p (.conv .r78) = (p.cmax * 7 / 8 - 6) / 8 * 8 ∧
    codewordBits p .noFec = 8 * (min p.cmax 952 / 8) ∧
    (∀ c, (∀ r, c ≠ .conv r) → c ≠ .noFec →
      codewordBits p c = codewordBits defaultParams c ∧ messageBits p c = messageBits defaultParams c) ∧
    (∀ c, codewordOctets p c = (codewordBits p c + 7) / 8) ∧
    (∀ c, 0 < messageBits p c ∧ messageBits p c ≤ codewordBits p c ∧ 0 < fragsPerCodeword p c ∧
      codewordOctets p c ≤ fragsPerCodeword p c * 119) ∧
    messageBits p (.conv .r12) % 8 = 0 ∧ messageBits p (.conv .r12) + 6 ≤ codewordBits p (.conv .r12) / 2 ∧
    fragsPerCodeword p (.conv .r12) ≤ 128 ∧
    messageBits p .noFec % 8 = 0 ∧ messageBits p .noFec = codewordBits p .noFec ∧ codewordOctets p .noFec ≤ 119

/-! ### Header -/

/-- 44_mpdu_header.md R150 to R153: HDR_ENC completes with the three codewords of the three 12-bit groups, big-endian,
after 0x80 when Data Field 1 is set. `EC` is carried raw. The nine octets are those of `headerOctets`, which the framer's statements name. -/
def Obligations.HdrEncCompletes : Prop :=
  ∀ (s : State) (ec : BitVec 6) (rf : BitVec 3) (df1 : Bool), ioFits s.params s.input.length = true →
    ioFits s.params (9 + df1.toNat) = true →
    let cfi := s.opa.extractLsb' 0 7
    let upl := s.opa.extractLsb' 7 12
    let upfi := s.opa.extractLsb' 19 8
    let e := golayEncode s.params.golayB
    let c0 := e (rf ++ ec ++ cfi.extractLsb' 4 3)
    let c1 := e (cfi.extractLsb' 0 4 ++ upl.extractLsb' 4 8)
    let c2 := e (upl.extractLsb' 0 4 ++ upfi)
    let octets := [c0, c1, c2].flatMap fun c => [c.extractLsb' 16 8, c.extractLsb' 8 8, c.extractLsb' 0 8]
    headerOctets s.params.golayB { rf := rf, ec := ec, cfi := cfi, upl := upl, upfi := upfi } = octets ∧
    exec (.hdrEnc ec rf df1) s = .next { s with
      status := 0
      res0 := 0
      res1 := 0
      out := (if df1 then [0x80] else []) ++ octets }

/-- 44_mpdu_header.md R154, R155; 30_encoding.md R65: HDR_DEC completes on at least `9 + DF1` octets, reporting the fields
whether or not the header is valid, and is BadFormat on fewer. Its results are written out by the bit ranges of R65, and so
are the two packings for all values of their fields (RX_FRAME's too, whose `kind` is not 0). -/
def Obligations.HdrDecCompletes : Prop :=
  (∀ (cfi : BitVec 7) (upl : BitVec 12) (upfi : BitVec 8),
    hpackA cfi upl upfi = BitVec.ofNat 32 (cfi.toNat + upl.toNat * 2 ^ 7 + upfi.toNat * 2 ^ 19)) ∧
  (∀ (ec : BitVec 6) (rf : BitVec 3) (valid ok0 ok1 ok2 : Bool) (uhf : BitVec 8) (kind : BitVec 2),
    let w := hpackB ec rf valid ok0 ok1 ok2 uhf kind
    w.extractLsb' 0 6 = ec ∧ w.extractLsb' 6 3 = rf ∧ w.getLsbD 9 = valid ∧ w.getLsbD 10 = ok0 ∧ w.getLsbD 11 = ok1 ∧
      w.getLsbD 12 = ok2 ∧ w.extractLsb' 13 8 = uhf ∧ w.extractLsb' 21 2 = kind ∧ w.extractLsb' 23 9 = 0) ∧
  ∀ (s : State) (df1 : Bool), ioFits s.params s.input.length = true →
    (∀ (lead rest : Bytes) (x0 x1 x2 y0 y1 y2 z0 z1 z2 : Byte), lead.length = df1.toNat →
      s.input = lead ++ [x0, x1, x2, y0, y1, y2, z0, z1, z2] ++ rest →
      let g0 := golayDecode s.params.golayB (x0 ++ x1 ++ x2)
      let g1 := golayDecode s.params.golayB (y0 ++ y1 ++ y2)
      let g2 := golayDecode s.params.golayB (z0 ++ z1 ++ z2)
      let i : BitVec 36 := g0.data ++ g1.data ++ g2.data
      let rf := i.extractLsb' 33 3
      let ec := i.extractLsb' 27 6
      let cfi := i.extractLsb' 20 7
      let upl := i.extractLsb' 8 12
      let upfi := i.extractLsb' 0 8
      exec (.hdrDec df1) s = .next { s with
        status := 0
        res0 := BitVec.ofNat 32 (cfi.toNat + upl.toNat * 2 ^ 7 + upfi.toNat * 2 ^ 19)
        res1 := BitVec.ofNat 32 (ec.toNat + rf.toNat * 2 ^ 6 + (g0.ok && g1.ok && g2.ok).toNat * 2 ^ 9 +
          g0.ok.toNat * 2 ^ 10 + g1.ok.toNat * 2 ^ 11 + g2.ok.toNat * 2 ^ 12 + (lead.headD 0).toNat * 2 ^ 13)
        out := [] }) ∧
    (s.input.length < 9 + df1.toNat →
      exec (.hdrDec df1) s = .next { s with status := 3, res0 := 0, res1 := 0, out := [] })

/-- 44_mpdu_header.md R156, first point (Property 2): HDR_DEC of HDR_ENC's output, whatever octets follow it, returns the
same tuple with `valid = 1`, for every 6-bit `ec`; with Data Field 1 also `uhf = 128`. -/
def Obligations.HeaderRoundTrip : Prop :=
  ∀ (s t : State) (ec : BitVec 6) (rf : BitVec 3) (df1 : Bool) (rest : Bytes), legalParams s.params = true →
    exec (.hdrEnc ec rf df1) s = .next t → t.status = 0 → ioFits s.params (t.out ++ rest).length = true →
    ∃ u, exec (.hdrDec df1) (withInput t (t.out ++ rest)) = .next u ∧ u.status = 0 ∧
      u.res0 = s.opa &&& 0x07FFFFFF ∧
      u.res1 = hpackB ec rf true true true true (if df1 then 128 else 0) 0

/-- 44_mpdu_header.md R152, R156, second point (Property 3 and more): up to three flips in each of the three codewords at
once leave the decoded fields unchanged and the header valid, without Data Field 1 and after one, whatever that octet
holds. -/
def Obligations.HeaderSurvivesThreeFlipsPerCodeword : Prop :=
  ∀ (b : List (BitVec 12)) (h : HeaderFields) (e0 e1 e2 : BitVec 24) (df1 : Bool) (uhf : Byte) (rest : Bytes),
    golayMatrixOk b = true → popcount e0 ≤ 3 → popcount e1 ≤ 3 → popcount e2 ≤ 3 →
    headerDecode b df1
        ((if df1 then [uhf] else []) ++ octets72 (be72 (headerOctets b h) ^^^ (e0 ++ e1 ++ e2)) ++ rest) =
      { fields := h, ok0 := true, ok1 := true, ok2 := true, uhf := if df1 then uhf else 0 }

/-- 44_mpdu_header.md R156, 45_mpdu_framer.md R172, 60_exceptions.md R196: exactly four flips in one codeword of a
frame's header, whatever the other two hold, with or without Data Field 1, make RX_FRAME drop it with HeaderCorrupt (4) and
kind 2, `REASM` unchanged. -/
def Obligations.FourFlipsInACodewordDropTheFrame : Prop :=
  ∀ (s : State) (h : HeaderFields) (e0 e1 e2 : BitVec 24) (df1 : Bool) (uhf : Byte) (payload : Bytes),
    legalParams s.params = true → payload.length = 119 →
    (popcount e0 = 4 ∨ popcount e1 = 4 ∨ popcount e2 = 4) →
    s.input = (if df1 then [uhf] else []) ++
      octets72 (be72 (headerOctets s.params.golayB h) ^^^ (e0 ++ e1 ++ e2)) ++ payload →
    ∃ t, exec (.rxFrame df1) s = .next t ∧ t.status = 4 ∧ res1Kind t = 2 ∧ t.out = [] ∧ t.reasm = s.reasm ∧
      t.codec = s.codec

/-! ### Framer -/

/-- 45_mpdu_framer.md R165, R167: FRAME_COUNT completes on an assigned code with `max(1, ceil(8P/m)) * k`, exactly: the
number is not cut by the 32 bits of `RES0`. -/
def Obligations.FrameCountCompletes : Prop :=
  ∀ (s : State) (ec : BitVec 6) (c : Scheme), legalParams s.params = true →
    ioFits s.params s.input.length = true → schemeOf s.params ec = some c →
    let m := messageBits s.params c
    let n := max 1 ((8 * s.opa.toNat + m - 1) / m) * fragsPerCodeword s.params c
    n < 2 ^ 32 ∧
    exec (.frameCount ec) s =
      .next { s with status := 0, res0 := BitVec.ofNat 32 n, res1 := 0, out := [] }

/-- 45_mpdu_framer.md R165, R168 to R170: within its limits TX_PACKET completes; `OUT` is the `N` frames of the packet in
ascending `(upfi, cfi)` order, each of `128 + DF1` octets. The frame at place `j k + i` is Data Field 1 (if set), the header
of `(rf, ec, cfi = i, upl = P, upfi = j)` and octets `119 i .. 119 i + 118` of the zero-padded codeword of block `j`: of
NO_FEC the block, of the convolutional scheme its encoding with the zero fill of R169. -/
def Obligations.TxPacketCompletes : Prop :=
  ∀ (s : State) (ec : BitVec 6) (rf : BitVec 3) (df1 : Bool) (c : Scheme) (cdc : FrameCodec),
    legalParams s.params = true → ioFits s.params s.input.length = true →
    schemeOf s.params ec = some c → frameCodec c = some cdc →
    s.input.length ≤ 4095 →
    let m := messageBits s.params c
    let k := if c = .noFec then 1 else ((codewordBits s.params c + 7) / 8 + 118) / 119
    let nc := max 1 ((8 * s.input.length + m - 1) / m)
    let n := nc * k
    nc ≤ 256 → k ≤ 128 → ioFits s.params (n * (128 + df1.toNat)) = true →
    let zeros := fun a : Nat => List.replicate a (0 : Byte)
    let block := fun j : Nat =>
      let x := (s.input.drop (j * (m / 8))).take (m / 8)
      x ++ zeros (m / 8 - x.length)
    let codeword := fun j : Nat =>
      match cdc with
      | .identity => block j
      | .convolutional => pack8 (convBits s.params.polyOrder
          (bits8 (block j) ++ List.replicate (codewordBits s.params c / 2 - m) false))
    let header := fun j i : Nat => headerOctets s.params.golayB
      { rf := rf, ec := ec, cfi := BitVec.ofNat 7 i, upl := BitVec.ofNat 12 s.input.length, upfi := BitVec.ofNat 8 j }
    ∃ frames : List Bytes,
      frames.length = n ∧ (∀ f ∈ frames, f.length = 128 + df1.toNat) ∧
      cutFrames (128 + df1.toNat) n frames.flatten = frames ∧
      (∀ j i, j < nc → i < k → frames[j * k + i]? =
        some ((if df1 then [0x80] else []) ++ header j i ++
          ((codeword j ++ zeros (k * 119)).drop (119 * i)).take 119)) ∧
      exec (.txPacket ec rf df1) s = .next { s with
        status := 0
        res0 := BitVec.ofNat 32 n
        res1 := BitVec.ofNat 32 (128 + df1.toNat)
        out := frames.flatten }

/-- 45_mpdu_framer.md R170, 60_exceptions.md R193: what TX_PACKET refuses on an assigned scheme, in order: a scheme
without a codec (NotImplemented, 2), then a packet a header field cannot hold, then frames longer than `IO_MAX`
(BadFormat, 3). -/
def Obligations.TxPacketRefusesInOrder : Prop :=
  ∀ (s : State) (ec : BitVec 6) (rf : BitVec 3) (df1 : Bool) (c : Scheme), ioFits s.params s.input.length = true →
    schemeOf s.params ec = some c →
    (c ≠ .conv .r12 → c ≠ .noFec →
      exec (.txPacket ec rf df1) s = .next { s with status := 2, res0 := 0, res1 := 0, out := [] }) ∧
    ((c = .conv .r12 ∨ c = .noFec) →
      (4095 < s.input.length ∨ 256 < codewordCount s.params c s.input.length ∨
        128 < fragsPerCodeword s.params c ∨
        ioFits s.params (frameTotal s.params c s.input.length * (128 + df1.toNat)) = false) →
      exec (.txPacket ec rf df1) s = .next { s with status := 3, res0 := 0, res1 := 0, out := [] })

/-- 45_mpdu_framer.md R169, R171: the codeword of a message block has `c(s)` octets, and without channel errors it decodes
to the block exactly, under every legal instance and both implemented schemes. And whatever octets `w` are received, with
any channel errors, `Dec` is what R171 writes: of NO_FEC the first `mB` octets, of the convolutional scheme the first `m`
bits that the Viterbi decoder answers (with the instance's `POLY_ORDER` and `TB_START`) for the first `2 floor(n/2)` bits;
`mB` octets for a codeword of `c(s)`. -/
def Obligations.CodewordDecodesToItsBlock : Prop :=
  ∀ (p : Params) (c : Scheme) (cdc : FrameCodec) (b : Bytes), legalParams p = true → frameCodec c = some cdc →
    b.length = blockOctets p c →
    (encodeBlock p c cdc b).length = codewordOctets p c ∧ decodeBlock p c cdc (encodeBlock p c cdc b) = b ∧
    ∀ w : Bytes,
      decodeBlock p .noFec .identity w = w.take (messageBits p .noFec / 8) ∧
      decodeBlock p (.conv .r12) .convolutional w =
        pack8 ((viterbi p.polyOrder p.tbStart ((bits8 w).take (2 * (codewordBits p (.conv .r12) / 2)))).take
          (messageBits p (.conv .r12))) ∧
      (w.length = codewordOctets p c → (decodeBlock p c cdc w).length = messageBits p c / 8)

/-- 45_mpdu_framer.md R181 (Property 1): the frames of a packet, received in any order with no context open for the
packet's key and room for one, give status OK every time; every one but the last is accepted (kind 0), the last delivers
the packet (kind 1) and leaves `REASM` as it was before the first. -/
def Obligations.PacketRoundTripInAnyOrder : Prop :=
  ∀ (s t : State) (ec : BitVec 6) (rf : BitVec 3) (df1 : Bool) (before after : List Bytes) (f : Bytes),
    legalParams s.params = true → exec (.txPacket ec rf df1) s = .next t → t.status = 0 →
    mapLookup ctxCode { upl := BitVec.ofNat 12 s.input.length, ec := ec } s.reasm = none →
    reasmFull s.params s.reasm.length = false →
    (before ++ f :: after).Perm (cutFrames t.res1.toNat t.res0.toNat t.out) →
    ∃ u v, receiveAll df1 t before = some u ∧ exec (.rxFrame df1) (withInput u f) = .next v ∧ v.status = 0 ∧
      (after ≠ [] → res1Kind v = 0 ∧ v.out = []) ∧
      (after = [] → res1Kind v = 1 ∧ v.out = s.input ∧ v.reasm = s.reasm)

/-- 45_mpdu_framer.md R172, 60_exceptions.md R191, R193: the frames RX_FRAME refuses, in the order of its checks. Each is
dropped with its status, the decoded header fields in the results (after a wrong length only kind 3), and nothing else
of the state changed. `REASM` is full at `REASM_CTX_MAX` contexts or more (log 11). -/
def Obligations.RxFrameRefusesInOrder : Prop :=
  ∀ (s : State) (df1 : Bool), ioFits s.params s.input.length = true →
    (s.input.length ≠ 128 + df1.toNat →
      exec (.rxFrame df1) s = .next { s with status := 3, res0 := 0, res1 := 0x00600000, out := [] }) ∧
    (s.input.length = 128 + df1.toNat →
      let h := headerDecode s.params.golayB df1 s.input
      let r0 := hpackA h.fields.cfi h.fields.upl h.fields.upfi
      let r1 := fun kind : BitVec 2 =>
        hpackB h.fields.ec h.fields.rf (h.ok0 && h.ok1 && h.ok2) h.ok0 h.ok1 h.ok2 h.uhf kind
      ((h.ok0 && h.ok1 && h.ok2) = false →
        exec (.rxFrame df1) s = .next { s with status := 4, res0 := r0, res1 := r1 2, out := [] }) ∧
      ((h.ok0 && h.ok1 && h.ok2) = true →
        (schemeOf s.params h.fields.ec = none →
          exec (.rxFrame df1) s = .next { s with status := 1, res0 := r0, res1 := r1 3, out := [] }) ∧
        ∀ c, schemeOf s.params h.fields.ec = some c →
          (c ≠ .conv .r12 → c ≠ .noFec →
            exec (.rxFrame df1) s = .next { s with status := 2, res0 := r0, res1 := r1 3, out := [] }) ∧
          ((c = .conv .r12 ∨ c = .noFec) →
            (fragsPerCodeword s.params c ≤ h.fields.cfi.toNat ∨
              codewordCount s.params c h.fields.upl.toNat ≤ h.fields.upfi.toNat →
              exec (.rxFrame df1) s = .next { s with status := 3, res0 := r0, res1 := r1 3, out := [] }) ∧
            (h.fields.cfi.toNat < fragsPerCodeword s.params c →
              h.fields.upfi.toNat < codewordCount s.params c h.fields.upl.toNat →
              mapLookup ctxCode { upl := h.fields.upl, ec := h.fields.ec } s.reasm = none →
              (∃ m, s.params.reasmCtxMax = some m ∧ m ≤ s.reasm.length) →
              exec (.rxFrame df1) s = .next { s with status := 6, res0 := r0, res1 := r1 3, out := [] }))))

/-- 45_mpdu_framer.md R172 to R175: a frame that passes every check completes with OK. Its fragment is written into its
slot of the context `x` (the open one, or a new one), its codeword is decoded if its slots are now all filled, and then
either the packet is complete, and is delivered with kind 1 and its context deleted, or it is not, and the context is
kept with kind 0 and `OUT` empty. -/
def Obligations.RxFrameCompletes : Prop :=
  ∀ (s : State) (df1 : Bool) (c : Scheme) (cdc : FrameCodec) (x : Context), legalParams s.params = true →
    s.input.length = 128 + df1.toNat →
    let h := headerDecode s.params.golayB df1 s.input
    let key : CtxKey := { upl := h.fields.upl, ec := h.fields.ec }
    (h.ok0 && h.ok1 && h.ok2) = true → schemeOf s.params h.fields.ec = some c → frameCodec c = some cdc →
    h.fields.cfi.toNat < fragsPerCodeword s.params c →
    h.fields.upfi.toNat < codewordCount s.params c h.fields.upl.toNat →
    (mapLookup ctxCode key s.reasm = some x ∨
      mapLookup ctxCode key s.reasm = none ∧ reasmFull s.params s.reasm.length = false ∧
        x = { frag := [], dec := [] }) →
    let frag := mapInsert slotCode { upfi := h.fields.upfi, cfi := h.fields.cfi } (s.input.drop (9 + df1.toNat)) x.frag
    let dec := match storedCodeword s.params c frag h.fields.upfi with
      | some w => mapInsert decCode h.fields.upfi (decodeBlock s.params c cdc w) x.dec
      | none => x.dec
    ∃ sc n,
      exec (.rxFrame df1) s = .next
        (match storedPacket s.params c h.fields.upl dec with
         | some packet =>
           { s with
             status := 0
             res0 := hpackA h.fields.cfi h.fields.upl h.fields.upfi
             res1 := hpackB h.fields.ec h.fields.rf true true true true h.uhf 1
             out := packet
             reasm := mapErase ctxCode key s.reasm
             scratch := sc
             freeIx := n }
         | none =>
           { s with
             status := 0
             res0 := hpackA h.fields.cfi h.fields.upl h.fields.upfi
             res1 := hpackB h.fields.ec h.fields.rf true true true true h.uhf 0
             out := []
             reasm := mapInsert ctxCode key { frag := frag, dec := dec } s.reasm
             scratch := sc
             freeIx := n })

/-- 45_mpdu_framer.md R174: last writer wins, and nothing else is disturbed. After a frame is accepted and not yet
delivered, its slot holds its 119 payload octets, every other slot of its context and every other context is as it was. -/
def Obligations.AcceptedFragmentFillsItsSlotOnly : Prop :=
  ∀ (s t : State) (df1 : Bool), Inv s → exec (.rxFrame df1) s = .next t → t.status = 0 → res1Kind t = 0 →
    let h := (headerDecode s.params.golayB df1 s.input).fields
    let key : CtxKey := { upl := h.upl, ec := h.ec }
    let slot : Slot := { upfi := h.upfi, cfi := h.cfi }
    (∃ y, mapLookup ctxCode key t.reasm = some y ∧
      mapLookup slotCode slot y.frag = some (s.input.drop (9 + df1.toNat)) ∧
      ∀ slot', slot' ≠ slot → mapLookup slotCode slot' y.frag =
        ((mapLookup ctxCode key s.reasm).bind fun x => mapLookup slotCode slot' x.frag)) ∧
    ∀ key', key' ≠ key → mapLookup ctxCode key' t.reasm = mapLookup ctxCode key' s.reasm

/-- 20_memory.md R48: RX_FRAME of the same frame again, while its context is open, rewrites the same slot with the same
octets and changes nothing: the same results, the same `REASM`. -/
def Obligations.RepeatedFrameChangesNothing : Prop :=
  ∀ (s t : State) (df1 : Bool), legalParams s.params = true → exec (.rxFrame df1) s = .next t → t.status = 0 →
    res1Kind t = 0 →
    ∃ u, exec (.rxFrame df1) t = .next u ∧ u.status = 0 ∧ u.res0 = t.res0 ∧ u.res1 = t.res1 ∧ u.out = t.out ∧
      u.reasm = t.reasm

/-- 45_mpdu_framer.md R179, R180: RX_DROP deletes one context and says whether there was one, with `EC` a raw key;
RX_FLUSH deletes all of them and says how many there were. From every state with the invariant, after RX_DROP the dropped
key reads as absent and every other key as before, and the count that RX_FLUSH writes is at most 2^18, so that its 32 bits
hold it (log 16). -/
def Obligations.DropAndFlushComplete : Prop :=
  ∀ (s : State) (ec : BitVec 6), ioFits s.params s.input.length = true →
    (mapLookup ctxCode { upl := s.opa.extractLsb' 0 12, ec := ec } s.reasm = none →
      exec (.rxDrop ec) s = .next { s with status := 0, res0 := 0, res1 := 0, out := [] }) ∧
    (∀ x, mapLookup ctxCode { upl := s.opa.extractLsb' 0 12, ec := ec } s.reasm = some x →
      exec (.rxDrop ec) s = .next { s with
        status := 0
        res0 := 1
        res1 := 0
        out := []
        reasm := mapErase ctxCode { upl := s.opa.extractLsb' 0 12, ec := ec } s.reasm }) ∧
    exec .rxFlush s = .next { s with
      status := 0
      res0 := BitVec.ofNat 32 s.reasm.length
      res1 := 0
      out := []
      reasm := [] } ∧
    (Inv s →
      (∀ t, exec (.rxDrop ec) s = .next t →
        mapLookup ctxCode { upl := s.opa.extractLsb' 0 12, ec := ec } t.reasm = none ∧
        ∀ key : CtxKey, key ≠ { upl := s.opa.extractLsb' 0 12, ec := ec } →
          mapLookup ctxCode key t.reasm = mapLookup ctxCode key s.reasm) ∧
      s.reasm.length ≤ 2 ^ 18)
end

