-- ==== Sys2Proof/Laws/Bits.lean ====
section
/-!
SUPPORT. Lengths of the bit and octet conversions, and population counts as sums over the bits.
-/

namespace Sys2Proof.Machine

@[simp] theorem zeroOctets_length (n : Nat) : (zeroOctets n).length = n := by simp [zeroOctets]

theorem padOctets_length {n : Nat} {x : Bytes} (h : x.length ≤ n) : (padOctets n x).length = n := by
  simp [padOctets]; omega

@[simp] theorem packOctets_length (t n : Nat) (s : Bits) : (packOctets t n s).length = n := by
  induction n generalizing s with
  | zero => rfl
  | succ n ih => simp [packOctets, ih]

@[simp] theorem packForm_length (t : Nat) (s : Bits) : (packForm t s).length = ceilDiv s.length t :=
  packOctets_length t _ s

@[simp] theorem pack8_length (s : Bits) : (pack8 s).length = ceilDiv s.length 8 := packForm_length 8 s

@[simp] theorem octetBits_length (t : Nat) (o : Byte) : (octetBits t o).length = t := by simp [octetBits]

@[simp] theorem unpackForm_nil (t : Nat) : unpackForm t [] = [] := rfl

@[simp] theorem unpackForm_cons (t : Nat) (o : Byte) (x : Bytes) :
    unpackForm t (o :: x) = octetBits t o ++ unpackForm t x := rfl

@[simp] theorem unpackForm_length (t : Nat) (x : Bytes) : (unpackForm t x).length = t * x.length := by
  induction x with
  | nil => simp
  | cons o x ih => simp [ih, Nat.mul_add, Nat.add_comm]

@[simp] theorem bits8_length (x : Bytes) : (bits8 x).length = 8 * x.length := unpackForm_length 8 x

@[simp] theorem octets72_length (h : BitVec 72) : (octets72 h).length = 9 := by simp [octets72]

/-- `ceil(a/b)` octets of `b` bits are the least that hold `a` bits. -/
theorem ceilDiv_le_iff {a b c : Nat} (hb : 0 < b) : ceilDiv a b ≤ c ↔ a ≤ b * c := by
  unfold ceilDiv
  rw [Nat.div_le_iff_le_mul_add_pred hb]
  constructor <;> intro h <;> omega

/-- The ones of a natural are its set bits. -/
theorem onesOfNat_eq_sum (k v : Nat) : onesOfNat k v = ∑ i ∈ Finset.range k, (v.testBit i).toNat := by
  induction k generalizing v with
  | zero => rfl
  | succ k ih =>
    rw [onesOfNat, ih, Finset.sum_range_succ', Nat.add_comm]
    congr 1
    · exact Finset.sum_congr rfl fun i _ => by rw [← Nat.testBit_succ]
    · rw [Nat.testBit_zero]
      rcases Nat.mod_two_eq_zero_or_one v with h | h <;> simp [h]

/-- The population count is the number of set bits (00_scope.md R14). -/
theorem popcount_eq_sum {n : Nat} (v : BitVec n) : popcount v = ∑ i ∈ Finset.range n, (v.getLsbD i).toNat :=
  onesOfNat_eq_sum n v.toNat

/-- A word of `n` bits has at most `n` ones. -/
theorem popcount_le {n : Nat} (v : BitVec n) : popcount v ≤ n := by
  rw [popcount_eq_sum]
  refine (Finset.sum_le_card_nsmul _ _ 1 fun i _ => Bool.toNat_le _).trans ?_
  simp

/-- The default matrix generates a code of minimum weight 8 (42_golay.md R110), so `golayMatrixOk` need not check it
again. -/
theorem defaultGolayB_sumsHaveWeight8 : sumsHaveWeight8 defaultGolayB 0 0 = true := by decide +kernel

/-- The default codes are an injective map into 0..63 (40_scheme_table.md R80), so `ecCodeOk` need not check it again. -/
theorem defaultEcCode_injective : defaultEcCode.length = 49 ∧ defaultEcCode.Nodup := by decide +kernel

/-- A legal matrix has twelve rows, and every sum of them is light only if empty. -/
theorem golayMatrixOk_iff (b : List (BitVec 12)) :
    golayMatrixOk b = true ↔ b.length = 12 ∧ sumsHaveWeight8 b 0 0 = true := by
  constructor
  · intro h
    simp only [golayMatrixOk, Bool.or_eq_true, Bool.and_eq_true, beq_iff_eq] at h
    rcases h with rfl | h
    · exact ⟨rfl, defaultGolayB_sumsHaveWeight8⟩
    · exact h
  · rintro ⟨h1, h2⟩
    rw [golayMatrixOk, h1, h2]
    simp

/-- A legal code map has one code for each of the 49 schemes, no two alike. -/
theorem ecCodeOk_iff (c : List (BitVec 6)) : ecCodeOk c = true ↔ c.length = 49 ∧ c.Nodup := by
  constructor
  · intro h
    simp only [ecCodeOk, Bool.or_eq_true, Bool.and_eq_true, beq_iff_eq, decide_eq_true_eq] at h
    rcases h with rfl | h
    · exact defaultEcCode_injective
    · exact h
  · rintro ⟨h1, h2⟩
    simp [ecCodeOk, h1, h2]

end Sys2Proof.Machine
end

