-- ==== Sys2Proof/Laws/State.lean ====
section
/-!
SUPPORT. What each update of the state does to each field, true by definition, so that no proof unfolds a record update.
-/

namespace Sys2Proof.Machine

/-! ### `complete` -/

@[simp] theorem complete_cmd (s : State) (r0 r1 : Word) (out : Bytes) : (s.complete r0 r1 out).cmd = s.cmd := rfl
@[simp] theorem complete_opa (s : State) (r0 r1 : Word) (out : Bytes) : (s.complete r0 r1 out).opa = s.opa := rfl
@[simp] theorem complete_input (s : State) (r0 r1 : Word) (out : Bytes) : (s.complete r0 r1 out).input = s.input := rfl
@[simp] theorem complete_status (s : State) (r0 r1 : Word) (out : Bytes) : (s.complete r0 r1 out).status = statusCode .ok := rfl
@[simp] theorem complete_res0 (s : State) (r0 r1 : Word) (out : Bytes) : (s.complete r0 r1 out).res0 = r0 := rfl
@[simp] theorem complete_res1 (s : State) (r0 r1 : Word) (out : Bytes) : (s.complete r0 r1 out).res1 = r1 := rfl
@[simp] theorem complete_out (s : State) (r0 r1 : Word) (out : Bytes) : (s.complete r0 r1 out).out = out := rfl
@[simp] theorem complete_codec (s : State) (r0 r1 : Word) (out : Bytes) : (s.complete r0 r1 out).codec = s.codec := rfl
@[simp] theorem complete_reasm (s : State) (r0 r1 : Word) (out : Bytes) : (s.complete r0 r1 out).reasm = s.reasm := rfl
@[simp] theorem complete_scratch (s : State) (r0 r1 : Word) (out : Bytes) : (s.complete r0 r1 out).scratch = s.scratch := rfl
@[simp] theorem complete_freeIx (s : State) (r0 r1 : Word) (out : Bytes) : (s.complete r0 r1 out).freeIx = s.freeIx := rfl
@[simp] theorem complete_params (s : State) (r0 r1 : Word) (out : Bytes) : (s.complete r0 r1 out).params = s.params := rfl

/-! ### `raiseWith` -/

@[simp] theorem raiseWith_cmd (s : State) (e : Status) (r0 r1 : Word) : (s.raiseWith e r0 r1).cmd = s.cmd := rfl
@[simp] theorem raiseWith_opa (s : State) (e : Status) (r0 r1 : Word) : (s.raiseWith e r0 r1).opa = s.opa := rfl
@[simp] theorem raiseWith_input (s : State) (e : Status) (r0 r1 : Word) : (s.raiseWith e r0 r1).input = s.input := rfl
@[simp] theorem raiseWith_status (s : State) (e : Status) (r0 r1 : Word) : (s.raiseWith e r0 r1).status = statusCode e := rfl
@[simp] theorem raiseWith_res0 (s : State) (e : Status) (r0 r1 : Word) : (s.raiseWith e r0 r1).res0 = r0 := rfl
@[simp] theorem raiseWith_res1 (s : State) (e : Status) (r0 r1 : Word) : (s.raiseWith e r0 r1).res1 = r1 := rfl
@[simp] theorem raiseWith_out (s : State) (e : Status) (r0 r1 : Word) : (s.raiseWith e r0 r1).out = [] := rfl
@[simp] theorem raiseWith_codec (s : State) (e : Status) (r0 r1 : Word) : (s.raiseWith e r0 r1).codec = s.codec := rfl
@[simp] theorem raiseWith_reasm (s : State) (e : Status) (r0 r1 : Word) : (s.raiseWith e r0 r1).reasm = s.reasm := rfl
@[simp] theorem raiseWith_scratch (s : State) (e : Status) (r0 r1 : Word) : (s.raiseWith e r0 r1).scratch = s.scratch := rfl
@[simp] theorem raiseWith_freeIx (s : State) (e : Status) (r0 r1 : Word) : (s.raiseWith e r0 r1).freeIx = s.freeIx := rfl
@[simp] theorem raiseWith_params (s : State) (e : Status) (r0 r1 : Word) : (s.raiseWith e r0 r1).params = s.params := rfl

/-! ### `raise` -/

@[simp] theorem raise_cmd (s : State) (e : Status) : (s.raise e).cmd = s.cmd := rfl
@[simp] theorem raise_opa (s : State) (e : Status) : (s.raise e).opa = s.opa := rfl
@[simp] theorem raise_input (s : State) (e : Status) : (s.raise e).input = s.input := rfl
@[simp] theorem raise_status (s : State) (e : Status) : (s.raise e).status = statusCode e := rfl
@[simp] theorem raise_res0 (s : State) (e : Status) : (s.raise e).res0 = 0 := rfl
@[simp] theorem raise_res1 (s : State) (e : Status) : (s.raise e).res1 = 0 := rfl
@[simp] theorem raise_out (s : State) (e : Status) : (s.raise e).out = [] := rfl
@[simp] theorem raise_codec (s : State) (e : Status) : (s.raise e).codec = s.codec := rfl
@[simp] theorem raise_reasm (s : State) (e : Status) : (s.raise e).reasm = s.reasm := rfl
@[simp] theorem raise_scratch (s : State) (e : Status) : (s.raise e).scratch = s.scratch := rfl
@[simp] theorem raise_freeIx (s : State) (e : Status) : (s.raise e).freeIx = s.freeIx := rfl
@[simp] theorem raise_params (s : State) (e : Status) : (s.raise e).params = s.params := rfl

/-! ### `setCodec` -/

@[simp] theorem setCodec_cmd (s : State) (c : BitVec 7) : (s.setCodec c).cmd = s.cmd := rfl
@[simp] theorem setCodec_opa (s : State) (c : BitVec 7) : (s.setCodec c).opa = s.opa := rfl
@[simp] theorem setCodec_input (s : State) (c : BitVec 7) : (s.setCodec c).input = s.input := rfl
@[simp] theorem setCodec_status (s : State) (c : BitVec 7) : (s.setCodec c).status = s.status := rfl
@[simp] theorem setCodec_res0 (s : State) (c : BitVec 7) : (s.setCodec c).res0 = s.res0 := rfl
@[simp] theorem setCodec_res1 (s : State) (c : BitVec 7) : (s.setCodec c).res1 = s.res1 := rfl
@[simp] theorem setCodec_out (s : State) (c : BitVec 7) : (s.setCodec c).out = s.out := rfl
@[simp] theorem setCodec_codec (s : State) (c : BitVec 7) : (s.setCodec c).codec = c := rfl
@[simp] theorem setCodec_reasm (s : State) (c : BitVec 7) : (s.setCodec c).reasm = s.reasm := rfl
@[simp] theorem setCodec_scratch (s : State) (c : BitVec 7) : (s.setCodec c).scratch = s.scratch := rfl
@[simp] theorem setCodec_freeIx (s : State) (c : BitVec 7) : (s.setCodec c).freeIx = s.freeIx := rfl
@[simp] theorem setCodec_params (s : State) (c : BitVec 7) : (s.setCodec c).params = s.params := rfl

/-! ### `setReasm` -/

@[simp] theorem setReasm_cmd (s : State) (m : List (CtxKey × Context)) : (s.setReasm m).cmd = s.cmd := rfl
@[simp] theorem setReasm_opa (s : State) (m : List (CtxKey × Context)) : (s.setReasm m).opa = s.opa := rfl
@[simp] theorem setReasm_input (s : State) (m : List (CtxKey × Context)) : (s.setReasm m).input = s.input := rfl
@[simp] theorem setReasm_status (s : State) (m : List (CtxKey × Context)) : (s.setReasm m).status = s.status := rfl
@[simp] theorem setReasm_res0 (s : State) (m : List (CtxKey × Context)) : (s.setReasm m).res0 = s.res0 := rfl
@[simp] theorem setReasm_res1 (s : State) (m : List (CtxKey × Context)) : (s.setReasm m).res1 = s.res1 := rfl
@[simp] theorem setReasm_out (s : State) (m : List (CtxKey × Context)) : (s.setReasm m).out = s.out := rfl
@[simp] theorem setReasm_codec (s : State) (m : List (CtxKey × Context)) : (s.setReasm m).codec = s.codec := rfl
@[simp] theorem setReasm_reasm (s : State) (m : List (CtxKey × Context)) : (s.setReasm m).reasm = m := rfl
@[simp] theorem setReasm_scratch (s : State) (m : List (CtxKey × Context)) : (s.setReasm m).scratch = s.scratch := rfl
@[simp] theorem setReasm_freeIx (s : State) (m : List (CtxKey × Context)) : (s.setReasm m).freeIx = s.freeIx := rfl
@[simp] theorem setReasm_params (s : State) (m : List (CtxKey × Context)) : (s.setReasm m).params = s.params := rfl

/-! ### `leaveScratch` -/

@[simp] theorem leaveScratch_cmd (s : State) : (s.leaveScratch).cmd = s.cmd := rfl
@[simp] theorem leaveScratch_opa (s : State) : (s.leaveScratch).opa = s.opa := rfl
@[simp] theorem leaveScratch_input (s : State) : (s.leaveScratch).input = s.input := rfl
@[simp] theorem leaveScratch_status (s : State) : (s.leaveScratch).status = s.status := rfl
@[simp] theorem leaveScratch_res0 (s : State) : (s.leaveScratch).res0 = s.res0 := rfl
@[simp] theorem leaveScratch_res1 (s : State) : (s.leaveScratch).res1 = s.res1 := rfl
@[simp] theorem leaveScratch_out (s : State) : (s.leaveScratch).out = s.out := rfl
@[simp] theorem leaveScratch_codec (s : State) : (s.leaveScratch).codec = s.codec := rfl
@[simp] theorem leaveScratch_reasm (s : State) : (s.leaveScratch).reasm = s.reasm := rfl
@[simp] theorem leaveScratch_scratch (s : State) : (s.leaveScratch).scratch = Config.scratchAfter s.freeIx := rfl
@[simp] theorem leaveScratch_freeIx (s : State) : (s.leaveScratch).freeIx = s.freeIx + 1 := rfl
@[simp] theorem leaveScratch_params (s : State) : (s.leaveScratch).params = s.params := rfl

/-! ### `present` -/

@[simp] theorem present_cmd (s : State) (cmd opa : Word) (input : Bytes) : (s.present cmd opa input).cmd = cmd := rfl
@[simp] theorem present_opa (s : State) (cmd opa : Word) (input : Bytes) : (s.present cmd opa input).opa = opa := rfl
@[simp] theorem present_input (s : State) (cmd opa : Word) (input : Bytes) : (s.present cmd opa input).input = input := rfl
@[simp] theorem present_status (s : State) (cmd opa : Word) (input : Bytes) : (s.present cmd opa input).status = s.status := rfl
@[simp] theorem present_res0 (s : State) (cmd opa : Word) (input : Bytes) : (s.present cmd opa input).res0 = s.res0 := rfl
@[simp] theorem present_res1 (s : State) (cmd opa : Word) (input : Bytes) : (s.present cmd opa input).res1 = s.res1 := rfl
@[simp] theorem present_out (s : State) (cmd opa : Word) (input : Bytes) : (s.present cmd opa input).out = s.out := rfl
@[simp] theorem present_codec (s : State) (cmd opa : Word) (input : Bytes) : (s.present cmd opa input).codec = s.codec := rfl
@[simp] theorem present_reasm (s : State) (cmd opa : Word) (input : Bytes) : (s.present cmd opa input).reasm = s.reasm := rfl
@[simp] theorem present_scratch (s : State) (cmd opa : Word) (input : Bytes) : (s.present cmd opa input).scratch = s.scratch := rfl
@[simp] theorem present_freeIx (s : State) (cmd opa : Word) (input : Bytes) : (s.present cmd opa input).freeIx = s.freeIx := rfl
@[simp] theorem present_params (s : State) (cmd opa : Word) (input : Bytes) : (s.present cmd opa input).params = s.params := rfl

/-! ### `warmReset` -/

@[simp] theorem warmReset_cmd (s : State) : (s.warmReset).cmd = 0 := rfl
@[simp] theorem warmReset_opa (s : State) : (s.warmReset).opa = 0 := rfl
@[simp] theorem warmReset_input (s : State) : (s.warmReset).input = [] := rfl
@[simp] theorem warmReset_status (s : State) : (s.warmReset).status = 0 := rfl
@[simp] theorem warmReset_res0 (s : State) : (s.warmReset).res0 = 0 := rfl
@[simp] theorem warmReset_res1 (s : State) : (s.warmReset).res1 = 0 := rfl
@[simp] theorem warmReset_out (s : State) : (s.warmReset).out = [] := rfl
@[simp] theorem warmReset_codec (s : State) : (s.warmReset).codec = 0 := rfl
@[simp] theorem warmReset_reasm (s : State) : (s.warmReset).reasm = [] := rfl
@[simp] theorem warmReset_scratch (s : State) : (s.warmReset).scratch = resetScratch := rfl
@[simp] theorem warmReset_freeIx (s : State) : (s.warmReset).freeIx = s.freeIx := rfl
@[simp] theorem warmReset_params (s : State) : (s.warmReset).params = s.params := rfl

/-! ### `withFetchWord` -/

@[simp] theorem withFetchWord_cmd (s : State) (nbits w : Nat) : (s.withFetchWord nbits w).cmd = BitVec.ofNat 32 (w % 2 ^ nbits) := rfl
@[simp] theorem withFetchWord_opa (s : State) (nbits w : Nat) : (s.withFetchWord nbits w).opa = s.opa := rfl
@[simp] theorem withFetchWord_input (s : State) (nbits w : Nat) : (s.withFetchWord nbits w).input = s.input := rfl
@[simp] theorem withFetchWord_status (s : State) (nbits w : Nat) : (s.withFetchWord nbits w).status = s.status := rfl
@[simp] theorem withFetchWord_res0 (s : State) (nbits w : Nat) : (s.withFetchWord nbits w).res0 = s.res0 := rfl
@[simp] theorem withFetchWord_res1 (s : State) (nbits w : Nat) : (s.withFetchWord nbits w).res1 = s.res1 := rfl
@[simp] theorem withFetchWord_out (s : State) (nbits w : Nat) : (s.withFetchWord nbits w).out = s.out := rfl
@[simp] theorem withFetchWord_codec (s : State) (nbits w : Nat) : (s.withFetchWord nbits w).codec = s.codec := rfl
@[simp] theorem withFetchWord_reasm (s : State) (nbits w : Nat) : (s.withFetchWord nbits w).reasm = s.reasm := rfl
@[simp] theorem withFetchWord_scratch (s : State) (nbits w : Nat) : (s.withFetchWord nbits w).scratch = s.scratch := rfl
@[simp] theorem withFetchWord_freeIx (s : State) (nbits w : Nat) : (s.withFetchWord nbits w).freeIx = s.freeIx := rfl
@[simp] theorem withFetchWord_params (s : State) (nbits w : Nat) : (s.withFetchWord nbits w).params = s.params := rfl

/-! ### `withInput` -/

@[simp] theorem withInput_cmd (s : State) (x : Bytes) : (withInput s x).cmd = s.cmd := rfl
@[simp] theorem withInput_opa (s : State) (x : Bytes) : (withInput s x).opa = s.opa := rfl
@[simp] theorem withInput_input (s : State) (x : Bytes) : (withInput s x).input = x := rfl
@[simp] theorem withInput_status (s : State) (x : Bytes) : (withInput s x).status = s.status := rfl
@[simp] theorem withInput_res0 (s : State) (x : Bytes) : (withInput s x).res0 = s.res0 := rfl
@[simp] theorem withInput_res1 (s : State) (x : Bytes) : (withInput s x).res1 = s.res1 := rfl
@[simp] theorem withInput_out (s : State) (x : Bytes) : (withInput s x).out = s.out := rfl
@[simp] theorem withInput_codec (s : State) (x : Bytes) : (withInput s x).codec = s.codec := rfl
@[simp] theorem withInput_reasm (s : State) (x : Bytes) : (withInput s x).reasm = s.reasm := rfl
@[simp] theorem withInput_scratch (s : State) (x : Bytes) : (withInput s x).scratch = s.scratch := rfl
@[simp] theorem withInput_freeIx (s : State) (x : Bytes) : (withInput s x).freeIx = s.freeIx := rfl
@[simp] theorem withInput_params (s : State) (x : Bytes) : (withInput s x).params = s.params := rfl

/-! ### `resetWith` -/

@[simp] theorem resetWith_cmd (p : Params) : (State.resetWith p).cmd = 0 := rfl
@[simp] theorem resetWith_opa (p : Params) : (State.resetWith p).opa = 0 := rfl
@[simp] theorem resetWith_input (p : Params) : (State.resetWith p).input = [] := rfl
@[simp] theorem resetWith_status (p : Params) : (State.resetWith p).status = 0 := rfl
@[simp] theorem resetWith_res0 (p : Params) : (State.resetWith p).res0 = 0 := rfl
@[simp] theorem resetWith_res1 (p : Params) : (State.resetWith p).res1 = 0 := rfl
@[simp] theorem resetWith_out (p : Params) : (State.resetWith p).out = [] := rfl
@[simp] theorem resetWith_codec (p : Params) : (State.resetWith p).codec = 0 := rfl
@[simp] theorem resetWith_reasm (p : Params) : (State.resetWith p).reasm = [] := rfl
@[simp] theorem resetWith_scratch (p : Params) : (State.resetWith p).scratch = resetScratch := rfl
@[simp] theorem resetWith_freeIx (p : Params) : (State.resetWith p).freeIx = 0 := rfl
@[simp] theorem resetWith_params (p : Params) : (State.resetWith p).params = p := rfl

end Sys2Proof.Machine
end

