-- ==== Sys2Proof/Laws/Ops.lean ====
section
/-!
SUPPORT. What the shared operations can do, said once for each: ending a command, the buffer bounds, the finite maps and
their canonical form.
-/

namespace Sys2Proof.Machine

/-! ### Ending a command -/

/-- `runCommand` always has a next state: the body's, or BadFormat when `IN` is too long. -/
theorem runCommand_next (s : State) (body : State → State) :
    ∃ t, runCommand s body = .next t ∧
      (ioFits s.params s.input.length = true ∧ t = body s
        ∨ ioFits s.params s.input.length = false ∧ t = s.raise .badFormat) := by
  refine ⟨_, rfl, ?_⟩
  cases h : ioFits s.params s.input.length <;> simp

theorem runCommand_of_fits {s : State} (h : ioFits s.params s.input.length = true) (body : State → State) :
    runCommand s body = .next (body s) := by
  simp [runCommand, h]

theorem runCommand_of_not_fits {s : State} (h : ioFits s.params s.input.length = false) (body : State → State) :
    runCommand s body = .next (s.raise .badFormat) := by
  simp [runCommand, h]

/-- `finish` completes with `OK` in the state of the command's writes, or raises BadFormat in the state before it. -/
theorem finish_cases (s s' : State) (r0 r1 : Word) (out : Bytes) :
    ioFits s.params out.length = true ∧ s.finish s' r0 r1 out = s'.complete r0 r1 out
      ∨ ioFits s.params out.length = false ∧ s.finish s' r0 r1 out = s.raise .badFormat := by
  cases h : ioFits s.params out.length <;> simp [State.finish, h]

theorem finish_of_fits {s : State} {out : Bytes} (h : ioFits s.params out.length = true) (s' : State) (r0 r1 : Word) :
    s.finish s' r0 r1 out = s'.complete r0 r1 out := by
  simp [State.finish, h]

theorem finish_of_not_fits {s : State} {out : Bytes} (h : ioFits s.params out.length = false) (s' : State)
    (r0 r1 : Word) : s.finish s' r0 r1 out = s.raise .badFormat := by
  simp [State.finish, h]

/-- Nothing is too long for no octets at all. -/
@[simp] theorem ioFits_zero (p : Params) : ioFits p 0 = true := by
  unfold ioFits; split <;> simp

/-- A command with an empty `OUT` always completes. -/
@[simp] theorem finish_nil (s s' : State) (r0 r1 : Word) : s.finish s' r0 r1 [] = s'.complete r0 r1 [] :=
  finish_of_fits (by simp) s' r0 r1

@[simp] theorem reply_nil (s : State) (r0 r1 : Word) : s.reply r0 r1 [] = s.complete r0 r1 [] := finish_nil s s r0 r1

theorem reply_of_fits {s : State} {out : Bytes} (h : ioFits s.params out.length = true) (r0 r1 : Word) :
    s.reply r0 r1 out = s.complete r0 r1 out :=
  finish_of_fits h s r0 r1

/-- A sequence no longer than one that fits, fits. -/
theorem ioFits_mono {p : Params} {m n : Nat} (h : m ≤ n) (hn : ioFits p n = true) : ioFits p m = true := by
  unfold ioFits at *; split at hn <;> simp_all; omega

/-- A count that fits the register is stored as it is; nothing is known of the register otherwise (log 16). -/
@[simp] theorem countWord_of_fits {n : Nat} (h : n < 2 ^ 32) : countWord n = BitVec.ofNat 32 n := if_pos h

theorem countWord_of_not_fits {n : Nat} (h : 2 ^ 32 ≤ n) : countWord n = Config.countTooWide n := if_neg (by omega)

/-- In a legal instance 4096 octets fit (60_exceptions.md R192). -/
theorem ioFits_of_legal {p : Params} (h : legalParams p = true) {n : Nat} (hn : n ≤ 4096) : ioFits p n = true := by
  simp only [legalParams, Bool.and_eq_true] at h
  have hb := h.2
  unfold ioFits; unfold boundOk at hb
  split at hb <;> simp_all; omega

/-! ### Finite maps -/

section Maps

variable {κ β : Type} {code : κ → Nat}

@[simp] theorem mapLookup_nil (k : κ) : mapLookup (β := β) code k [] = none := rfl

theorem mapLookup_cons (k : κ) (e : κ × β) (m : List (κ × β)) :
    mapLookup code k (e :: m) = if code e.1 = code k then some e.2 else mapLookup code k m := rfl

/-- A lookup answers a value only from an entry of the map. -/
theorem mem_of_mapLookup {k : κ} {v : β} {m : List (κ × β)} (h : mapLookup code k m = some v) :
    ∃ e ∈ m, code e.1 = code k ∧ e.2 = v := by
  induction m with
  | nil => simp at h
  | cons e m ih =>
    rw [mapLookup_cons] at h
    split at h
    · exact ⟨e, by simp, ‹_›, by simpa using h⟩
    · obtain ⟨e', he', hc⟩ := ih h
      exact ⟨e', by simp [he'], hc⟩

/-- Looking up a key just inserted gives the value inserted. -/
theorem mapLookup_mapInsert_self (k : κ) (v : β) (m : List (κ × β)) :
    mapLookup code k (mapInsert code k v m) = some v := by
  induction m with
  | nil => simp [mapInsert, mapLookup_cons]
  | cons e m ih =>
    unfold mapInsert
    split
    · simp [mapLookup_cons]
    · split
      · simp [mapLookup_cons]
      · rw [mapLookup_cons, if_neg (by omega), ih]

/-- An insertion leaves every other key alone. -/
theorem mapLookup_mapInsert_ne {k k' : κ} (h : code k' ≠ code k) (v : β) (m : List (κ × β)) :
    mapLookup code k' (mapInsert code k v m) = mapLookup code k' m := by
  induction m with
  | nil => simp [mapInsert, mapLookup_cons, h.symm]
  | cons e m ih =>
    unfold mapInsert
    split
    · rw [mapLookup_cons, if_neg (by simpa using h.symm)]
    · split
      · rw [mapLookup_cons, if_neg (by simpa using h.symm), mapLookup_cons, if_neg (by omega)]
      · rw [mapLookup_cons, mapLookup_cons, ih]

/-- Every entry of a map after an insertion is the new one or an old one. -/
theorem mem_mapInsert {k : κ} {v : β} {m : List (κ × β)} {e : κ × β} (h : e ∈ mapInsert code k v m) :
    e = (k, v) ∨ e ∈ m := by
  induction m with
  | nil => simpa [mapInsert] using h
  | cons a m ih =>
    unfold mapInsert at h
    split at h
    · simpa using h
    · split at h
      · rcases List.mem_cons.1 h with h | h <;> simp [h]
      · rcases List.mem_cons.1 h with h | h
        · simp [h]
        · rcases ih h with h | h <;> simp [h]

/-- An insertion keeps the canonical form. -/
theorem mapSorted_mapInsert {m : List (κ × β)} (h : MapSorted code m) (k : κ) (v : β) :
    MapSorted code (mapInsert code k v m) := by
  induction m with
  | nil => simp [mapInsert, MapSorted]
  | cons e m ih =>
    obtain ⟨he, hm⟩ := List.pairwise_cons.1 h
    unfold mapInsert
    split
    next hlt =>
      refine List.pairwise_cons.2 ⟨fun a ha => ?_, h⟩
      rcases List.mem_cons.1 ha with rfl | ha
      · exact hlt
      · exact hlt.trans (he a ha)
    next hge =>
      split
      next heq => exact List.pairwise_cons.2 ⟨fun a ha => by simpa [heq] using he a ha, hm⟩
      next hne =>
        refine List.pairwise_cons.2 ⟨fun a ha => ?_, ih hm⟩
        rcases mem_mapInsert ha with rfl | ha
        · simp only; omega
        · exact he a ha

/-- Every entry left after an erasure was there before. -/
theorem mem_mapErase {k : κ} {m : List (κ × β)} {e : κ × β} (h : e ∈ mapErase code k m) : e ∈ m := by
  induction m with
  | nil => simp [mapErase] at h
  | cons a m ih =>
    unfold mapErase at h
    split at h
    · simp [h]
    · rcases List.mem_cons.1 h with h | h
      · simp [h]
      · simp [ih h]

/-- An erasure keeps the canonical form. -/
theorem mapSorted_mapErase {m : List (κ × β)} (h : MapSorted code m) (k : κ) : MapSorted code (mapErase code k m) := by
  induction m with
  | nil => simp [mapErase, MapSorted]
  | cons e m ih =>
    obtain ⟨he, hm⟩ := List.pairwise_cons.1 h
    unfold mapErase
    split
    · exact hm
    · exact List.pairwise_cons.2 ⟨fun a ha => he a (mem_mapErase ha), ih hm⟩

/-- In canonical form a lookup finds exactly the entries of the map. -/
theorem mapLookup_eq_some_of_mem {m : List (κ × β)} (h : MapSorted code m) {e : κ × β} (he : e ∈ m) :
    mapLookup code e.1 m = some e.2 := by
  induction m with
  | nil => simp at he
  | cons a m ih =>
    obtain ⟨ha, hm⟩ := List.pairwise_cons.1 h
    rw [mapLookup_cons]
    rcases List.mem_cons.1 he with rfl | he
    · simp
    · rw [if_neg (by have := ha e he; omega), ih hm he]

/-- In canonical form a key is gone after its erasure. -/
theorem mapLookup_mapErase_self {m : List (κ × β)} (h : MapSorted code m) (k : κ) :
    mapLookup code k (mapErase code k m) = none := by
  induction m with
  | nil => rfl
  | cons a m ih =>
    obtain ⟨ha, hm⟩ := List.pairwise_cons.1 h
    unfold mapErase
    split
    next heq =>
      match hl : mapLookup code k m with
      | none => rfl
      | some v =>
        obtain ⟨e, he, hc, -⟩ := mem_of_mapLookup hl
        have := ha e he
        omega
    next hne => rw [mapLookup_cons, if_neg hne, ih hm]

/-- An erasure leaves every other key alone. -/
theorem mapLookup_mapErase_ne {k k' : κ} (h : code k' ≠ code k) (m : List (κ × β)) :
    mapLookup code k' (mapErase code k m) = mapLookup code k' m := by
  induction m with
  | nil => rfl
  | cons a m ih =>
    unfold mapErase
    split
    · rw [mapLookup_cons, if_neg (by omega)]
    · rw [mapLookup_cons, mapLookup_cons, ih]

/-- A key inserted where it was not, then erased, leaves the map as it was. -/
theorem mapErase_mapInsert_of_none {k : κ} {m : List (κ × β)} (h : mapLookup code k m = none) (v : β) :
    mapErase code k (mapInsert code k v m) = m := by
  induction m with
  | nil => simp [mapInsert, mapErase]
  | cons a m ih =>
    rw [mapLookup_cons] at h
    split at h
    · simp at h
    · next hne =>
      unfold mapInsert
      split
      · simp [mapErase]
      · rw [if_neg (fun hc => hne hc.symm), mapErase, if_neg hne, ih h]

end Maps

/-! ### The codes of the keys are injective -/

theorem ctxCode_injective {a b : CtxKey} (h : ctxCode a = ctxCode b) : a = b := by
  have ha := a.ec.isLt; have hb := b.ec.isLt
  unfold ctxCode at h
  have h1 : a.upl = b.upl := BitVec.eq_of_toNat_eq (by omega)
  have h2 : a.ec = b.ec := BitVec.eq_of_toNat_eq (by rw [h1] at h; omega)
  cases a; cases b; simp_all

theorem slotCode_injective {a b : Slot} (h : slotCode a = slotCode b) : a = b := by
  have ha := a.cfi.isLt; have hb := b.cfi.isLt
  unfold slotCode at h
  have h1 : a.upfi = b.upfi := BitVec.eq_of_toNat_eq (by omega)
  have h2 : a.cfi = b.cfi := BitVec.eq_of_toNat_eq (by rw [h1] at h; omega)
  cases a; cases b; simp_all

theorem decCode_injective {a b : BitVec 8} (h : decCode a = decCode b) : a = b := BitVec.eq_of_toNat_eq h

/-! ### The canonical form of `REASM` -/

/-- The memory right after reset is in canonical form. -/
theorem reasmWf_nil : ReasmWf [] := ⟨List.Pairwise.nil, by simp⟩

/-- Writing a context in canonical form keeps the canonical form of `REASM`. -/
theorem reasmWf_mapInsert {m : List (CtxKey × Context)} (h : ReasmWf m) (key : CtxKey) {x : Context}
    (hx : MapSorted slotCode x.frag ∧ MapSorted decCode x.dec ∧ ∀ f ∈ x.frag, f.2.length = mtu) :
    ReasmWf (mapInsert ctxCode key x m) := by
  refine ⟨mapSorted_mapInsert h.1 key x, fun e he => ?_⟩
  rcases mem_mapInsert he with rfl | he
  · exact hx
  · exact h.2 e he

/-- Deleting a context keeps the canonical form of `REASM`. -/
theorem reasmWf_mapErase {m : List (CtxKey × Context)} (h : ReasmWf m) (key : CtxKey) :
    ReasmWf (mapErase ctxCode key m) :=
  ⟨mapSorted_mapErase h.1 key, fun e he => h.2 e (mem_mapErase he)⟩

/-- A context of a memory in canonical form is in canonical form, and so is a new one. -/
theorem openContext_wf {s : State} (h : ReasmWf s.reasm) {key : CtxKey} {x : Context}
    (hx : openContext s key = some x) :
    MapSorted slotCode x.frag ∧ MapSorted decCode x.dec ∧ ∀ f ∈ x.frag, f.2.length = mtu := by
  unfold openContext at hx
  split at hx
  next hl =>
    obtain ⟨e, he, -, rfl⟩ := mem_of_mapLookup hl
    cases hx
    exact h.2 e he
  next =>
    split at hx
    · cases hx
    · cases hx
      simp [emptyContext, MapSorted]

/-- Writing a fragment of 119 octets into a slot keeps a context's canonical form. -/
theorem putFragment_wf {x : Context}
    (hx : MapSorted slotCode x.frag ∧ MapSorted decCode x.dec ∧ ∀ f ∈ x.frag, f.2.length = mtu) (slot : Slot)
    {payload : Bytes} (hp : payload.length = mtu) :
    MapSorted slotCode (putFragment x slot payload).frag ∧ MapSorted decCode (putFragment x slot payload).dec ∧
      ∀ f ∈ (putFragment x slot payload).frag, f.2.length = mtu := by
  refine ⟨mapSorted_mapInsert hx.1 slot payload, hx.2.1, fun f hf => ?_⟩
  rcases mem_mapInsert hf with rfl | hf
  · exact hp
  · exact hx.2.2 f hf

/-- Decoding a codeword keeps a context's canonical form. -/
theorem decodeCodeword_wf {x : Context}
    (hx : MapSorted slotCode x.frag ∧ MapSorted decCode x.dec ∧ ∀ f ∈ x.frag, f.2.length = mtu) (p : Params)
    (c : Scheme) (cdc : FrameCodec) (upfi : BitVec 8) :
    MapSorted slotCode (decodeCodeword p c cdc upfi x).frag ∧ MapSorted decCode (decodeCodeword p c cdc upfi x).dec ∧
      ∀ f ∈ (decodeCodeword p c cdc upfi x).frag, f.2.length = mtu := by
  unfold decodeCodeword
  split
  · exact ⟨hx.1, mapSorted_mapInsert hx.2.1 _ _, hx.2.2⟩
  · exact hx

/-! ### Gathering -/

/-- `gather f n` answers exactly when every one of `f 0 .. f (n-1)` does. -/
theorem gather_isSome_iff (f : Nat → Option Bytes) (n : Nat) :
    (gather f n).isSome = true ↔ ∀ i < n, (f i).isSome = true := by
  induction n with
  | zero => simp [gather]
  | succ n ih =>
    unfold gather
    constructor
    · intro h i hi
      split at h
      next x y hx hy =>
        rcases Nat.lt_succ_iff_lt_or_eq.1 hi with hi | rfl
        · exact ih.1 (by simp [hx]) i hi
        · simp [hy]
      next => simp at h
    · intro h
      obtain ⟨x, hx⟩ := Option.isSome_iff_exists.1 (ih.2 fun i hi => h i (by omega))
      obtain ⟨y, hy⟩ := Option.isSome_iff_exists.1 (h n (by omega))
      simp [hx, hy]

end Sys2Proof.Machine
end

