-- ==== Sys2Proof/Laws/Convolutional.lean ====
section
/-!
SUPPORT. Lengths in the convolutional codec: two output bits for each input bit, one trellis row for each received pair.
-/

namespace Sys2Proof.Machine

@[simp] theorem convBitsFrom_length (po : PolyOrder) (st : BitVec 6) (u : Bits) :
    (convBitsFrom po st u).length = 2 * u.length := by
  induction u generalizing st with
  | nil => rfl
  | cons b u ih => simp [convBitsFrom, ih]; omega

@[simp] theorem convBits_length (po : PolyOrder) (u : Bits) : (convBits po u).length = 2 * u.length :=
  convBitsFrom_length po 0 u

/-- Pairing the encoder's output gives the output pairs back. -/
theorem pairUp_convBitsFrom_cons (po : PolyOrder) (st : BitVec 6) (b : Bool) (u : Bits) :
    pairUp (convBitsFrom po st (b :: u)) = encOutputs po st b :: pairUp (convBitsFrom po (encNext st b) u) := rfl

theorem pairUp_length {α : Type} : ∀ l : List α, (pairUp l).length = l.length / 2
  | [] => by simp [pairUp]
  | [_] => by simp [pairUp]
  | _ :: _ :: l => by simp only [pairUp, List.length_cons, pairUp_length l]; omega

@[simp] theorem trellisRows_length (po : PolyOrder) : (trellisRows po).length = 64 := by simp [trellisRows]

/-- 64 metrics stay 64 metrics. -/
theorem acsStep_length {pm : List Metric} (h : pm.length = 64) (po : PolyOrder) (r : Bool × Bool) :
    (acsStep po pm r).length = 64 := by
  simp [acsStep, pairUp_length, h]

@[simp] theorem initialMetrics_length : initialMetrics.length = 64 := rfl

@[simp] theorem acsRun_rows (po : PolyOrder) (pm : List Metric) (rs : List (Bool × Bool)) :
    (acsRun po pm rs).2.length = rs.length := by
  induction rs generalizing pm with
  | nil => rfl
  | cons r rs ih => simp [acsRun, ih]

@[simp] theorem traceback_length (rows : List (List Nat)) (st : Nat) : (traceback rows st).length = rows.length := by
  induction rows generalizing st with
  | nil => rfl
  | cons row rows ih => simp [traceback, ih]

/-- The decoder drops the last `K-1` of its `T` bits (43_convolutional.md R136). -/
@[simp] theorem viterbi_length (po : PolyOrder) (tb : TbStart) (r : Bits) :
    (viterbi po tb r).length = r.length / 2 - 6 := by
  simp [viterbi, pairUp_length, constraintLength]

end Sys2Proof.Machine
end

