-- ==== Sys2Proof/Laws/Golay.lean ====
section
/-!
SUPPORT. What the Golay decoder's search answers: a light pattern of the syndrome, or nothing when there is none.
-/

namespace Sys2Proof.Machine

/-- The bits of a codeword: parity below, data above (42_golay.md R111). -/
theorem getLsbD_halves (u v : BitVec 12) (i : Nat) :
    (u ++ v : BitVec 24).getLsbD i = if i < 12 then v.getLsbD i else u.getLsbD (i - 12) :=
  BitVec.getLsbD_append

@[simp] theorem golayDataHalf_append (a b : BitVec 12) : golayDataHalf (a ++ b) = a := by
  refine BitVec.eq_of_getLsbD_eq fun i hi => ?_
  rw [golayDataHalf, BitVec.getLsbD_extractLsb', getLsbD_halves, if_neg (by omega), Nat.add_sub_cancel_left]
  simp [hi]

@[simp] theorem golayParityHalf_append (a b : BitVec 12) : golayParityHalf (a ++ b) = b := by
  refine BitVec.eq_of_getLsbD_eq fun i hi => ?_
  rw [golayParityHalf, BitVec.getLsbD_extractLsb', getLsbD_halves, if_pos (by omega), Nat.zero_add]
  simp [hi]

/-- A 24-bit word is its two halves. -/
theorem golay_halves (r : BitVec 24) : golayDataHalf r ++ golayParityHalf r = r := by
  refine BitVec.eq_of_getLsbD_eq fun i hi => ?_
  rw [getLsbD_halves, golayDataHalf, golayParityHalf, BitVec.getLsbD_extractLsb', BitVec.getLsbD_extractLsb']
  split
  next h => simp [h]
  next h => rw [show 12 + (i - 12) = i by omega, decide_eq_true (by omega), Bool.true_and]

@[simp] theorem golaySyndrome_append (b : List (BitVec 12)) (u v : BitVec 12) :
    golaySyndrome b (u ++ v) = parityMap b u ^^^ v := by
  simp [golaySyndrome]

/-- The pattern found has at most three ones and the syndrome asked for (42_golay.md R113). -/
theorem golayError_some {b : List (BitVec 12)} {syn : BitVec 12} {e : BitVec 24} (h : golayError b syn = some e) :
    popcount e ≤ 3 ∧ golaySyndrome b e = syn := by
  unfold golayError at h
  have hp := List.find?_some h
  obtain ⟨n, -, rfl⟩ := List.mem_map.1 (List.mem_of_find?_eq_some h)
  refine ⟨by simpa using hp, ?_⟩
  rw [golaySyndrome_append, BitVec.xor_comm syn, ← BitVec.xor_assoc, BitVec.xor_self, BitVec.zero_xor]

/-- `lowWeight` lists every natural with few ones. -/
theorem mem_lowWeight {w k n : Nat} (hn : n < 2 ^ w) (hk : ∑ i ∈ Finset.range w, (n.testBit i).toNat ≤ k) :
    n ∈ lowWeight w k := by
  induction w generalizing k n with
  | zero => have : n = 0 := by simpa using hn
            simp [lowWeight, this]
  | succ w ih =>
    rw [Finset.sum_range_succ] at hk
    by_cases hb : n.testBit w = true
    · have hge : 2 ^ w ≤ n := Nat.ge_two_pow_of_testBit hb
      obtain ⟨m, rfl⟩ : ∃ m, n = m + 2 ^ w := ⟨n - 2 ^ w, by omega⟩
      have hm : m < 2 ^ w := by rw [Nat.pow_succ] at hn; omega
      have hsum : ∑ i ∈ Finset.range w, ((m + 2 ^ w).testBit i).toNat = ∑ i ∈ Finset.range w, (m.testBit i).toNat :=
        Finset.sum_congr rfl fun i hi => by
          rw [Nat.add_comm, Nat.testBit_two_pow_add_gt (Finset.mem_range.1 hi)]
      rw [hsum, hb] at hk
      match k, hk with
      | k + 1, hk =>
        refine List.mem_append.2 (.inr (List.mem_map.2 ⟨m, ih hm ?_, rfl⟩))
        simpa using hk
    · have hlt : n < 2 ^ w := by
        by_contra hge
        have h2 : 2 ^ w ≤ n := Nat.le_of_not_lt hge
        obtain ⟨m, rfl⟩ : ∃ m, n = m + 2 ^ w := ⟨n - 2 ^ w, by omega⟩
        have hm : m < 2 ^ w := by rw [Nat.pow_succ] at hn; omega
        rw [Nat.add_comm, Nat.testBit_two_pow_add_eq, Nat.testBit_lt_two_pow hm] at hb
        simp at hb
      simp only [hb, Bool.toNat_false, Nat.add_zero] at hk
      match k, hk with
      | 0, hk => exact ih hlt hk
      | k + 1, hk => exact List.mem_append.2 (.inl (ih hlt hk))

/-- The ones of a pattern are those of its two halves. -/
theorem popcount_append (u v : BitVec 12) : popcount (n := 24) (u ++ v) = popcount u + popcount v := by
  rw [popcount_eq_sum, popcount_eq_sum, popcount_eq_sum,
    Finset.sum_range_add (fun i => ((u ++ v : BitVec 24).getLsbD i).toNat) 12 12, Nat.add_comm]
  congr 1
  · refine Finset.sum_congr rfl fun i _ => ?_
    rw [getLsbD_halves, if_neg (by omega), Nat.add_sub_cancel_left]
  · refine Finset.sum_congr rfl fun i hi => ?_
    have hi : i < 12 := Finset.mem_range.1 hi
    rw [getLsbD_halves, if_pos hi]

/-- The search answers nothing only when no pattern of at most three ones has the syndrome (42_golay.md R113). -/
theorem golayError_none {b : List (BitVec 12)} {syn : BitVec 12} (h : golayError b syn = none) (e : BitVec 24)
    (he : popcount e ≤ 3) : golaySyndrome b e ≠ syn := by
  intro hs
  have hsplit := golay_halves e
  set u := golayDataHalf e with hu
  set v := golayParityHalf e with hv
  rw [← hsplit] at he hs
  rw [popcount_append] at he
  rw [golaySyndrome_append] at hs
  have hmem : u.toNat ∈ lowWeight 12 3 := by
    refine mem_lowWeight u.isLt ?_
    have : popcount u ≤ 3 := by omega
    rwa [popcount_eq_sum] at this
  unfold golayError at h
  have := List.find?_eq_none.1 h (BitVec.ofNat 12 u.toNat ++ (syn ^^^ parityMap b (BitVec.ofNat 12 u.toNat)))
    (List.mem_map.2 ⟨_, hmem, rfl⟩)
  rw [BitVec.ofNat_toNat, BitVec.setWidth_eq, ← hs, BitVec.xor_comm (parityMap b u), BitVec.xor_assoc,
    BitVec.xor_self, BitVec.xor_zero] at this
  simp only [decide_eq_true_eq] at this
  rw [popcount_append] at this
  omega

end Sys2Proof.Machine
end

