-- ==== Sys2Proof/Laws/Framer.lean ====
section
/-!
SUPPORT. Lengths of headers, fragments and frames, and what storing a received fragment can do.
-/

namespace Sys2Proof.Machine

@[simp] theorem headerOctets_length (b : List (BitVec 12)) (h : HeaderFields) : (headerOctets b h).length = 9 :=
  octets72_length _

@[simp] theorem headerEncode_length (b : List (BitVec 12)) (df1 : Bool) (h : HeaderFields) :
    (headerEncode b df1 h).length = 9 + df1.toNat := by
  cases df1 <;> simp [headerEncode]

/-- A block of a packet has `mB` octets (45_mpdu_framer.md R168). -/
@[simp] theorem messageBlock_length (p : Params) (c : Scheme) (x : Bytes) (j : Nat) :
    (messageBlock p c x j).length = blockOctets p c :=
  padOctets_length (by simp)

/-- Every fragment of a codeword no longer than its `k` fragments has 119 octets (45_mpdu_framer.md R170). -/
theorem fragment_length {p : Params} {c : Scheme} {w : Bytes} (hw : w.length ≤ fragsPerCodeword p c * mtu) {i : Nat}
    (hi : i < fragsPerCodeword p c) : (fragment p c w i).length = mtu := by
  have h : (i + 1) * mtu ≤ fragsPerCodeword p c * mtu := Nat.mul_le_mul_right _ hi
  simp only [fragment, List.length_take, List.length_drop, padOctets_length hw]
  rw [Nat.add_mul] at h
  omega

/-- A codeword's frames are `k(s)` (45_mpdu_framer.md R165). -/
@[simp] theorem codewordFrames_length (p : Params) (c : Scheme) (cdc : FrameCodec) (ec : BitVec 6) (rf : BitVec 3)
    (df1 : Bool) (x : Bytes) (j : Nat) : (codewordFrames p c cdc ec rf df1 x j).length = fragsPerCodeword p c := by
  simp [codewordFrames]

/-- A packet's frames are `N(s, P)` (45_mpdu_framer.md R165). -/
@[simp] theorem packetFrames_length (p : Params) (c : Scheme) (cdc : FrameCodec) (ec : BitVec 6) (rf : BitVec 3)
    (df1 : Bool) (x : Bytes) : (packetFrames p c cdc ec rf df1 x).length = frameTotal p c x.length := by
  simp [packetFrames, frameTotal, List.length_flatMap, List.map_const']

/-- The scratch is used or it is not; nothing else of the state changes. -/
theorem scratchAfterStore_cases (p : Params) (c : Scheme) (cdc : FrameCodec) (x : Context) (upfi : BitVec 8) (s : State) :
    scratchAfterStore p c cdc x upfi s = s.leaveScratch ∧ cdc = .convolutional
      ∨ scratchAfterStore p c cdc x upfi s = s := by
  unfold scratchAfterStore
  split
  · exact .inl ⟨rfl, rfl⟩
  · exact .inr rfl

/-- Storing an accepted fragment either delivers the packet and deletes the context, or keeps the context with the
fragment and answers nothing, or finds the packet longer than `IO_MAX` (45_mpdu_framer.md R172; 60_exceptions.md R192). -/
theorem rxStore_cases (s : State) (h : HeaderDecoded) (c : Scheme) (cdc : FrameCodec) (x : Context) (payload : Bytes) :
    let key : CtxKey := { upl := h.fields.upl, ec := h.fields.ec }
    let x1 := putFragment x { upfi := h.fields.upfi, cfi := h.fields.cfi } payload
    let x2 := decodeCodeword s.params c cdc h.fields.upfi x1
    let s1 := scratchAfterStore s.params c cdc x1 h.fields.upfi s
    (∃ packet, storedPacket s.params c h.fields.upl x2.dec = some packet ∧
        (ioFits s.params packet.length = true ∧
            rxStore s h c cdc x payload =
              (s1.setReasm (mapErase ctxCode key s.reasm)).complete (headerRes0 h) (headerRes1 h .packetReady) packet
          ∨ ioFits s.params packet.length = false ∧ rxStore s h c cdc x payload = s.raise .badFormat))
      ∨ storedPacket s.params c h.fields.upl x2.dec = none ∧
        rxStore s h c cdc x payload =
          (s1.setReasm (mapInsert ctxCode key x2 s.reasm)).complete (headerRes0 h) (headerRes1 h .fragmentAccepted) [] := by
  intro key x1 x2 s1
  cases hp : storedPacket s.params c h.fields.upl x2.dec with
  | some packet =>
    refine .inl ⟨packet, rfl, ?_⟩
    simp only [rxStore, key, x1, x2, s1] at hp ⊢
    rw [hp]
    exact finish_cases s _ _ _ packet
  | none =>
    refine .inr ⟨rfl, ?_⟩
    simp only [rxStore, key, x1, x2, s1] at hp ⊢
    rw [hp]
    exact finish_nil s _ _ _

/-- A delivered packet is never longer than its header says (45_mpdu_framer.md R175). -/
theorem storedPacket_length_le {p : Params} {c : Scheme} {upl : BitVec 12} {m : List (BitVec 8 × Bytes)} {x : Bytes}
    (h : storedPacket p c upl m = some x) : x.length ≤ upl.toNat := by
  unfold storedPacket at h
  obtain ⟨y, -, rfl⟩ := Option.map_eq_some_iff.1 h
  simp

end Sys2Proof.Machine
end

