-- ==== Sys2Proof/Laws/PerInstr.lean ====
section
/-!
SUPPORT. One statement about every command as syntax, proved constructor by constructor: its word selects a row of the
opcode map, whatever its fields hold (30_encoding.md R60, R66).
-/

namespace Sys2Proof.Laws.EncodingWellFormed

/-- The word of a command is well formed. -/
def Statement (i : Instr) : Prop := wellFormed (encode i) = true

/-- A word that selects row `n` of the opcode map is well formed. -/
theorem wellFormed_of_selects {w : Word} (n : Nat) (hn : n < opcodeTable.length) (h : opcodeTable[n].selects w = true) :
    wellFormed w = true :=
  List.any_eq_true.2 ⟨opcodeTable[n], List.getElem_mem hn, h⟩

theorem golayEnc : Statement .golayEnc :=
  wellFormed_of_selects 0 (by decide) (by decide +kernel)
theorem golayDec : Statement .golayDec :=
  wellFormed_of_selects 1 (by decide) (by decide +kernel)
theorem golay3Enc : Statement .golay3Enc :=
  wellFormed_of_selects 2 (by decide) (by decide +kernel)
theorem golay3Dec : Statement .golay3Dec :=
  wellFormed_of_selects 3 (by decide) (by decide +kernel)
theorem convInit (ec : BitVec 6) : Statement (.convInit ec) :=
  wellFormed_of_selects 4 (by decide) (by revert ec; decide +kernel)
theorem convEnc : Statement .convEnc :=
  wellFormed_of_selects 5 (by decide) (by decide +kernel)
theorem vitDec : Statement .vitDec :=
  wellFormed_of_selects 6 (by decide) (by decide +kernel)
theorem ppduRepack (st dt : BitVec 4) : Statement (.ppduRepack st dt) :=
  wellFormed_of_selects 7 (by decide) (by revert st dt; decide +kernel)
theorem schemeValid : Statement .schemeValid :=
  wellFormed_of_selects 8 (by decide) (by decide +kernel)
theorem schemeRate (ec : BitVec 6) : Statement (.schemeRate ec) :=
  wellFormed_of_selects 9 (by decide) (by revert ec; decide +kernel)
theorem schemeCwBits (ec : BitVec 6) : Statement (.schemeCwBits ec) :=
  wellFormed_of_selects 10 (by decide) (by revert ec; decide +kernel)
theorem schemeMsgBits (ec : BitVec 6) : Statement (.schemeMsgBits ec) :=
  wellFormed_of_selects 11 (by decide) (by revert ec; decide +kernel)
theorem schemeNumFrags (ec : BitVec 6) : Statement (.schemeNumFrags ec) :=
  wellFormed_of_selects 12 (by decide) (by revert ec; decide +kernel)
theorem hdrEnc (ec : BitVec 6) (rf : BitVec 3) (df1 : Bool) : Statement (.hdrEnc ec rf df1) :=
  wellFormed_of_selects 13 (by decide) (by revert ec rf df1; decide +kernel)
theorem hdrDec (df1 : Bool) : Statement (.hdrDec df1) :=
  wellFormed_of_selects 14 (by decide) (by revert df1; decide +kernel)
theorem frameCount (ec : BitVec 6) : Statement (.frameCount ec) :=
  wellFormed_of_selects 15 (by decide) (by revert ec; decide +kernel)
theorem txPacket (ec : BitVec 6) (rf : BitVec 3) (df1 : Bool) : Statement (.txPacket ec rf df1) :=
  wellFormed_of_selects 16 (by decide) (by revert ec rf df1; decide +kernel)
theorem rxFrame (df1 : Bool) : Statement (.rxFrame df1) :=
  wellFormed_of_selects 17 (by decide) (by revert df1; decide +kernel)
theorem rxDrop (ec : BitVec 6) : Statement (.rxDrop ec) :=
  wellFormed_of_selects 18 (by decide) (by revert ec; decide +kernel)
theorem rxFlush : Statement .rxFlush :=
  wellFormed_of_selects 19 (by decide) (by decide +kernel)

end Sys2Proof.Laws.EncodingWellFormed
end

