-- ==== Sys2Proof/Tests/Slice0.lean ====
section
/-!
SUPPORT. The model's own tests: ill-formed words, one word written out bit by bit for every command, one step of every
command on values of 95_test_vectors.md, and for every statement with hypotheses a witness that meets them.
-/

namespace Sys2Proof.Tests

open Sys2Proof.Machine

set_option Elab.async false

/-! ### Small states, and what a step answers -/

/-- The default instance after CONV_INIT of code 0. -/
def initialised : State := { State.reset with codec := 0x40 }

/-- An instance with `IO_MAX = 4096` and one context at most. -/
def bounded : State := State.resetWith { defaultParams with ioMax := some 4096, reasmCtxMax := some 1 }

/-- An instance with `CONV_TAIL = ZERO6` after CONV_INIT of code 0. -/
def tailed : State := { State.resetWith { defaultParams with convTail := .zero6 } with codec := 0x40 }

/-- A frame with the header of the nine octets of `h` and 119 zero payload octets. -/
def zeroFrame (h : BitVec 72) : Bytes := octets72 h ++ zeroOctets 119

/-- `STATUS`, `RES0`, `RES1` and `OUT` after one step. -/
def answer (s : State) (cmd opa : Word) (input : Bytes) : Option (BitVec 4 × Word × Word × Bytes) :=
  match step (s.present cmd opa input) with
  | .next t => some (t.status, t.res0, t.res1, t.out)
  | _ => none

/-- `CODEC` and `REASM` after one step. -/
def retained (s : State) (cmd opa : Word) (input : Bytes) : Option (BitVec 7 × List (CtxKey × Context)) :=
  match step (s.present cmd opa input) with
  | .next t => some (t.codec, t.reasm)
  | _ => none

/-! ### Ill-formed words: each of the three checks of 30_encoding.md R63 (rows of 95_test_vectors.md 2.9) -/

theorem test_reserved_bits_rejected :
    decode 0x04000001 = .rejected .reservedBits ∧ wellFormed 0x04000001 = false ∧
      decode 0x80000030 = .rejected .reservedBits ∧ wellFormed 0x80000030 = false := by decide

theorem test_unassigned_opcode_rejected :
    decode 0x00000000 = .rejected .unassignedOpcode ∧ wellFormed 0x00000000 = false ∧
      decode 0x00000005 = .rejected .unassignedOpcode ∧ wellFormed 0x00000005 = false ∧
      decode 0x000000FF = .rejected .unassignedOpcode ∧ wellFormed 0x000000FF = false := by decide

theorem test_unused_field_rejected :
    decode 0x00000101 = .rejected .unusedField ∧ wellFormed 0x00000101 = false ∧
      decode 0x00004010 = .rejected .unusedField ∧ wellFormed 0x00004010 = false ∧
      decode 0x02240120 = .rejected .unusedField ∧ wellFormed 0x02240120 = false ∧
      decode 0x00010054 = .rejected .unusedField ∧ wellFormed 0x00010054 = false ∧
      decode 0x03C3C054 = .rejected .unusedField ∧ wellFormed 0x03C3C054 = false := by decide

/-- The checks come in order: a word that fails all three is rejected for its reserved bits. -/
theorem test_checks_in_order :
    decode 0xFFFFFFFF = .rejected .reservedBits ∧ decode 0x03FFFFFF = .rejected .unassignedOpcode := by decide

/-! ### Every command's word, its bits in the order RSV ST DT DF1 RF EC OP of 30_encoding.md R60, R66 -/

theorem test_decode_golayEnc : decode 0b00000000000000000000000000000001 = .command .golayEnc := by decide
theorem test_decode_golayDec : decode 0b00000000000000000000000000000010 = .command .golayDec := by decide
theorem test_decode_golay3Enc : decode 0b00000000000000000000000000000011 = .command .golay3Enc := by decide
theorem test_decode_golay3Dec : decode 0b00000000000000000000000000000100 = .command .golay3Dec := by decide
/-- `EC = 110001`. -/
theorem test_decode_convInit : decode 0b00000000000000000011000100010000 = .command (.convInit 49) := by decide
theorem test_decode_convEnc : decode 0b00000000000000000000000000010001 = .command .convEnc := by decide
theorem test_decode_vitDec : decode 0b00000000000000000000000000010010 = .command .vitDec := by decide
/-- `ST = 1000`, `DT = 0001`. -/
theorem test_decode_ppduRepack : decode 0b00000010000001000000000000100000 = .command (.ppduRepack 8 1) := by decide
theorem test_decode_schemeValid : decode 0b00000000000000000000000000110000 = .command .schemeValid := by decide
/-- `EC = 000101`. -/
theorem test_decode_schemeRate : decode 0b00000000000000000000010100110001 = .command (.schemeRate 5) := by decide
/-- `EC = 100000`. -/
theorem test_decode_schemeCwBits : decode 0b00000000000000000010000000110010 = .command (.schemeCwBits 32) := by decide
/-- `EC = 000100`. -/
theorem test_decode_schemeMsgBits : decode 0b00000000000000000000010000110011 = .command (.schemeMsgBits 4) := by decide
/-- `EC = 101100`. -/
theorem test_decode_schemeNumFrags : decode 0b00000000000000000010110000110100 = .command (.schemeNumFrags 44) := by
  decide
/-- `DF1 = 1`, `RF = 011`, `EC = 110000`. -/
theorem test_decode_hdrEnc : decode 0b00000000000000101111000001000000 = .command (.hdrEnc 48 3 true) := by decide
/-- `DF1 = 1`. -/
theorem test_decode_hdrDec : decode 0b00000000000000100000000001000001 = .command (.hdrDec true) := by decide
/-- `EC = 101100`. -/
theorem test_decode_frameCount : decode 0b00000000000000000010110001010000 = .command (.frameCount 44) := by decide
/-- `DF1 = 0`, `RF = 001`, `EC = 000000`. -/
theorem test_decode_txPacket : decode 0b00000000000000000100000001010001 = .command (.txPacket 0 1 false) := by decide
/-- `DF1 = 1`. -/
theorem test_decode_rxFrame : decode 0b00000000000000100000000001010010 = .command (.rxFrame true) := by decide
/-- `EC = 110000`. -/
theorem test_decode_rxDrop : decode 0b00000000000000000011000001010011 = .command (.rxDrop 48) := by decide
theorem test_decode_rxFlush : decode 0b00000000000000000000000001010100 = .command .rxFlush := by decide

/-- The encoder writes those words back: the fields of 30_encoding.md R60, the opcodes of R66. -/
theorem test_encode_words :
    encode (.convInit 49) = 0x00003110 ∧ encode (.ppduRepack 8 1) = 0x02040020 ∧
      encode (.hdrEnc 48 3 true) = 0x0002F040 ∧ encode (.rxFrame true) = 0x00020052 ∧ encode .rxFlush = 0x00000054 := by
  decide

/-! ### One step of every command, expected values from 95_test_vectors.md -/

/-- 2.3: `0x123` and, `OPA[31:12]` ignored, `0xFFFABC`. -/
theorem test_golayEnc : answer State.reset 0x01 0x123 [] = some (0, 0x12365F, 0, []) ∧
    answer State.reset 0x01 0xFFFABC [] = some (0, 0xABCBF3, 0, []) := by decide +kernel

/-- 2.3: three errors. -/
theorem test_golayDec_corrects : answer State.reset 0x02 0x2BDBF2 [] = some (0, 0xABC, 0x301, []) := by decide +kernel

/-- 2.3: four errors. -/
theorem test_golayDec_detects : answer State.reset 0x02 0x6BCBF0 [] = some (0, 0x6BC, 0x400, []) := by decide +kernel

/-- 2.3: `0xABC`. -/
theorem test_golay3Enc : answer State.reset 0x03 0xABC [] =
    some (0, 0xABCBF3, 0, [0xAB, 0xCB, 0xF3, 0xAB, 0xCB, 0xF3, 0xAB, 0xCB, 0xF3]) := by decide +kernel

/-- 2.3: copy 0 has two errors. -/
theorem test_golay3Dec : answer State.reset 0x04 0 [0x54, 0xC4, 0xF3, 0xAB, 0xCB, 0xF3, 0xAB, 0xCB, 0xF3] =
    some (0, 0xABC, 0x20F, []) := by decide +kernel

/-- 2.3: eight octets. -/
theorem test_golay3Dec_length : answer State.reset 0x04 0 [0xAB, 0xCB, 0xF3, 0xAB, 0xCB, 0xF3, 0xAB, 0xCB] =
    some (3, 0, 0, []) := by decide +kernel

/-- 2.4: codes 0, 4 and 49. -/
theorem test_convInit : answer State.reset 0x10 0 [] = some (0, 0, 0, []) ∧
    answer initialised 0x410 0 [] = some (2, 0, 0, []) ∧ answer initialised 0x3110 0 [] = some (1, 0, 0, []) := by
  decide +kernel

/-- 2.4: the same three, `CODEC` after them. -/
theorem test_convInit_codec : (retained State.reset 0x10 0 []).map (·.1) = some 0x40 ∧
    (retained initialised 0x410 0 []).map (·.1) = some 4 ∧ (retained initialised 0x3110 0 []).map (·.1) = some 49 := by
  decide +kernel

/-- 2.4: `A55A`, and `A5` before CONV_INIT. -/
theorem test_convEnc : answer initialised 0x11 0 [0xA5, 0x5A] = some (0, 32, 0, [0xE1, 0xD5, 0x83, 0xEA]) ∧
    answer State.reset 0x11 0 [0xA5] = some (0, 0xFFFFFFFF, 0, []) := by decide +kernel

/-- 2.4: `A5` under `ZERO6`. -/
theorem test_convEnc_tail : answer tailed 0x11 0 [0xA5] = some (0, 28, 0, [0xE1, 0xD5, 0xBB, 0x70]) := by decide +kernel

/-- 2.4: `E1D583EA` with `OPA = 0x1234`. -/
theorem test_vitDec : answer initialised 0x12 0x1234 [0xE1, 0xD5, 0x83, 0xEA] = some (0, 0, 10, [0xA5, 0x00]) := by
  decide +kernel

/-- 2.4: `E1D583EA` under `MIN_METRIC`. -/
theorem test_vitDec_minMetric :
    answer { State.resetWith { defaultParams with tbStart := .minMetric } with codec := 0x40 } 0x12 0
      [0xE1, 0xD5, 0x83, 0xEA] = some (0, 0, 10, [0xA5, 0x40]) := by decide +kernel

/-- 2.2: tag 1 to tag 8, ten bits; tag 8 to tag 4. -/
theorem test_ppduRepack : answer State.reset 0x00600020 10 [1, 0, 1, 1, 0, 0, 1, 1, 1, 0] = some (0, 10, 0, [0xB3, 0x80]) ∧
    answer State.reset 0x02100020 16 [0xA5, 0x3C] = some (0, 16, 0, [0x0A, 0x05, 0x03, 0x0C]) := by decide +kernel

/-- 2.2: an octet too large, a length mismatch, a tag that is not one of the four. -/
theorem test_ppduRepack_rejects : answer State.reset 0x01200020 4 [0x10] = some (3, 0, 0, []) ∧
    answer State.reset 0x02040020 9 [0xA5] = some (3, 0, 0, []) ∧
    answer State.reset 0x00E00020 8 [0x01] = some (3, 0, 0, []) := by decide +kernel

/-- 2.1: codes 48, 49, 64. -/
theorem test_schemeValid : answer State.reset 0x30 48 [] = some (0, 1, 0, []) ∧
    answer State.reset 0x30 49 [] = some (0, 0, 0, []) ∧ answer State.reset 0x30 64 [] = some (1, 0, 0, []) := by
  decide +kernel

/-- 2.1: codes 5 and 49. -/
theorem test_schemeRate : answer State.reset 0x0531 0 [] = some (0, 10, 0, []) ∧
    answer State.reset 0x3131 0 [] = some (1, 13, 0, []) := by decide +kernel

/-- 2.1: code 32. -/
theorem test_schemeCwBits : answer State.reset 0x2032 0 [] = some (0, 53544, 0, []) := by decide +kernel

/-- 2.1: code 4. -/
theorem test_schemeMsgBits : answer State.reset 0x0433 0 [] = some (0, 824, 0, []) := by decide +kernel

/-- 2.1: code 36 at 81 and 80 octets, code 48 at 0. -/
theorem test_schemeNumFrags : answer State.reset 0x2434 81 [] = some (0, 1, 0, []) ∧
    answer State.reset 0x2434 80 [] = some (0, 2, 0, []) ∧ answer State.reset 0x3034 0 [] = some (3, 0, 0, []) := by
  decide +kernel

/-- 2.5: the tuple (5, 44, 2, 358, 3). -/
theorem test_hdrEnc : answer State.reset 0x00016C40 0x0018B302 [] =
    some (0, 0, 0, [0xB6, 0x0D, 0x27, 0x21, 0x68, 0x58, 0x60, 0x35, 0x81]) := by decide +kernel

/-- 2.5: the same tuple, Data Field 1 before another. -/
theorem test_hdrDec : answer State.reset 0x41 0 (octets72 0xB60D27216858603581) = some (0, 0x0018B302, 0x1F6C, []) ∧
    answer State.reset 0x00020041 0 (0x80 :: octets72 0x780EEA000000000000) = some (0, 0, 0x00101EF0, []) := by
  decide +kernel

/-- 2.5: four errors in codeword 0. -/
theorem test_hdrDec_invalid : answer State.reset 0x41 0 (octets72 0x880EEA000000000000) = some (0, 0, 0x1910, []) := by
  decide +kernel

/-- 1.2 and 2.6: code 44 at 358 octets, code 0 at `0xFFFFFFFF`. -/
theorem test_frameCount : answer State.reset 0x2C50 358 [] = some (0, 9, 0, []) ∧
    answer State.reset 0x0050 0xFFFFFFFF [] = some (0, 0x0469EE59, 0, []) := by decide +kernel

/-- 2.7: `DEADBEEF` under code 0, `RF` 2; and the two frames of a 200-octet packet under NO_FEC, `upfi` 0 then 1. -/
theorem test_txPacket : answer State.reset 0x8051 0 [0xDE, 0xAD, 0xBE, 0xEF] =
    some (0, 1, 128, octets72 0x400B8B000000400B8B ++
      [0xD7, 0xBD, 0xBB, 0xFA, 0x45, 0xFB, 0x40, 0x33, 0x56, 0xB0] ++ zeroOctets 109) ∧
    answer State.reset 0xF051 0 ((List.range 200).map (BitVec.ofNat 8)) =
      some (0, 2, 128, octets72 0x780EEA00CEC8800DC5 ++ (List.range 119).map (BitVec.ofNat 8) ++
        octets72 0x780EEA00CEC880123B ++ (List.range' 119 81).map (BitVec.ofNat 8) ++ zeroOctets 38) := by
  decide +kernel

/-- 2.7: one octet under NO_FEC with Data Field 1. -/
theorem test_txPacket_df1 : answer State.reset 0x2F051 0 [0x11] =
    some (0, 1, 129, 0x80 :: (octets72 0x780EEA000000100E2D ++ (0x11 :: zeroOctets 118))) := by decide +kernel

/-- 2.8: the empty packet is delivered at once; `cfi = 1` under NO_FEC is out of range. -/
theorem test_rxFrame : answer State.reset 0x52 0 (zeroFrame 0x780EEA000000000000) = some (0, 0, 0x00201EF0, []) ∧
    answer State.reset 0x52 0 (zeroFrame 0x780EEA100E2D000000) = some (3, 1, 0x00601EF0, []) := by decide +kernel

/-- 2.8 and P4: the first frame of a 200-octet NO_FEC packet opens a context. -/
theorem test_rxFrame_opens : answer State.reset 0x52 0 (zeroFrame 0x780EEA00CEC8800DC5) = some (0, 0x6400, 0x1EF0, []) ∧
    retained State.reset 0x52 0 (zeroFrame 0x780EEA00CEC8800DC5) =
      some (0, [({ upl := 200, ec := 48 },
        { frag := [({ upfi := 0, cfi := 0 }, zeroOctets 119)], dec := [(0, zeroOctets 119)] })]) := by decide +kernel

/-- The state after the first frame of that packet (P4, step 2). -/
def opened : State :=
  { bounded with reasm := [({ upl := 200, ec := 48 },
      { frag := [({ upfi := 0, cfi := 0 }, zeroOctets 119)], dec := [(0, zeroOctets 119)] })] }

/-- P4, step 3. -/
theorem test_rxDrop : answer opened 0x3053 200 [] = some (0, 1, 0, []) ∧ retained opened 0x3053 200 [] = some (0, []) ∧
    answer State.reset 0x3053 200 [] = some (0, 0, 0, []) := by decide +kernel

/-- 2.8. -/
theorem test_rxFlush : answer opened 0x54 0 [] = some (0, 1, 0, []) ∧ retained opened 0x54 0 [] = some (0, []) ∧
    answer State.reset 0x54 0 [] = some (0, 0, 0, []) := by decide +kernel

/-- 2.9: a decode error changes no state. -/
theorem test_decode_error : answer opened 0x04000054 0 [] = some (3, 0, 0, []) ∧
    retained opened 0x04000054 0 [] = some (0, opened.reasm) := by decide +kernel

/-! ### Witnesses: what meets the hypotheses of each statement -/

theorem test_witness_EncodeOfDecodeIsTheWord : decode 0x00016C40 = .command (.hdrEnc 44 5 false) := by decide

theorem test_witness_DecoderAgreesWithOpcodeMap :
    (∃ i, decode 0x0001FF51 = .command i) ∧ ∃ r ∈ opcodeTable, (0x0001FF51 : Word) &&& r.mask = r.bits := by
  exact ⟨⟨_, rfl⟩, by decide⟩

theorem test_witness_StepRunsTheDecodedCommand :
    legalParams State.reset.params = true ∧ decode (State.reset.present 0x02 0 []).cmd = .command .golayDec := by decide

/-- Reserved bits: the least and the greatest. Reserved opcodes: both ends of every range of R67. A field in use that is
not of the row: RX_FLUSH with the least and the greatest such bit. -/
theorem test_witness_ReservedWordCompletesWithBadFormat :
    legalParams State.reset.params = true ∧ (0x04000001 : Word).extractLsb' 26 6 ≠ 0 ∧
      (0xFC000001 : Word).extractLsb' 26 6 ≠ 0 ∧ (0x00 ≤ (State.reset.cmd.extractLsb' 0 8).toNat ∧
        (State.reset.cmd.extractLsb' 0 8).toNat ≤ 0x00) ∧
      (([0x00, 0x05, 0x0F, 0x13, 0x1F, 0x21, 0x2F, 0x35, 0x3F, 0x42, 0x4F, 0x55, 0xFF] : List Word).map decode =
        List.replicate 13 (.rejected .unassignedOpcode)) ∧
      (∃ r ∈ opcodeTable, r.bits.extractLsb' 0 8 = (0x00000154 : Word).extractLsb' 0 8 ∧
        (0x00000154 : Word) &&& r.mask ≠ r.bits) ∧
      ∃ r ∈ opcodeTable, r.bits.extractLsb' 0 8 = (0x02000054 : Word).extractLsb' 0 8 ∧
        (0x02000054 : Word) &&& r.mask ≠ r.bits := by decide

theorem test_witness_EveryCommandEndsWithOneStatus : legalParams State.reset.params = true := by decide

/-- The bounds of `CMAX` and `IO_MAX`, and one past each. -/
theorem test_witness_OnlyIllegalInstancesAreRefused :
    legalParams { defaultParams with cmax := 28 } = true ∧ legalParams { defaultParams with cmax := 121856 } = true ∧
      legalParams { defaultParams with ioMax := some 4096, reasmCtxMax := some 1 } = true ∧
      legalParams { defaultParams with cmax := 27 } = false ∧ legalParams { defaultParams with cmax := 121857 } = false ∧
      legalParams { defaultParams with ioMax := some 4095 } = false ∧
      legalParams { defaultParams with reasmCtxMax := some 0 } = false ∧
      legalParams { defaultParams with golayB := List.replicate 12 0 } = false ∧
      legalParams { defaultParams with ecCode := List.replicate 49 0 } = false := by decide +kernel

theorem test_witness_WarmResetOrFlushAndFailedInitClears :
    ioFits State.reset.params State.reset.input.length = true ∧ schemeOf State.reset.params 49 = none ∧
      schemeOf State.reset.params 63 = none := by decide

/-- A command that succeeds, and one that ends with an error. -/
theorem test_witness_CommandsWriteOnlyTheirOwnState :
    (∃ t, exec .rxFlush opened = .next t ∧ t.status = 0) ∧ ∃ t, exec (.txPacket 5 0 false) opened = .next t ∧ t.status ≠ 0 :=
  ⟨⟨_, rfl, by decide⟩, ⟨_, rfl, by decide⟩⟩

theorem test_witness_ErrorsWriteOnlyTheResults :
    (∃ t, exec (.schemeRate 49) State.reset = .next t ∧ t.status = 1) ∧
      (∃ t, exec (.convInit 4) initialised = .next t ∧ t.status ≠ 0) ∧
      ∃ t, exec .golay3Dec opened = .next t ∧ t.status ≠ 0 :=
  ⟨⟨_, rfl, by decide⟩, ⟨_, rfl, by decide⟩, ⟨_, rfl, by decide⟩⟩

theorem test_witness_OversizeInputIsBadFormat :
    bounded.params.ioMax = some 4096 ∧ 4096 < (withInput bounded (zeroOctets 4097)).input.length :=
  ⟨rfl, by simp [withInput]⟩

/-- Two states that differ in everything the statement does not fix. -/
theorem test_witness_ResultsAreAFunctionOfTheInputs :
    let s := opened.present 0x54 0 []
    let s' := { s with status := 3, res0 := 1, res1 := 1, out := [0], scratch := Config.scratchAfter 0, freeIx := 1 }
    s'.cmd = s.cmd ∧ s'.opa = s.opa ∧ s'.input = s.input ∧ s'.codec = s.codec ∧ s'.reasm = s.reasm ∧
      s'.params = s.params ∧ ∃ t, step s = .next t :=
  ⟨rfl, rfl, rfl, rfl, rfl, rfl, _, rfl⟩

theorem test_witness_GolayAndHeaderCommandsHoldNoState :
    let s := initialised.present 0 0xABC []
    let s' := { s with codec := 0, cmd := 0x54, reasm := opened.reasm }
    s'.opa = s.opa ∧ s'.input = s.input ∧ s'.params.golayB = s.params.golayB ∧ s'.params.ioMax = s.params.ioMax ∧
      ∃ t, exec .golayEnc s = .next t :=
  ⟨rfl, rfl, rfl, rfl, _, rfl⟩

/-- The open context of `opened` is one that a run can hold. -/
theorem opened_contextLegal : ∀ e ∈ opened.reasm, ContextLegal opened.params e.1 e.2 := by
  intro e he
  obtain rfl : e = _ := List.mem_singleton.1 he
  exact ⟨⟨.noFec, .identity, by decide +kernel, rfl, by decide +kernel, by decide +kernel, by decide +kernel⟩, by simp⟩

theorem opened_inv : Inv opened :=
  ⟨by decide +kernel, by decide, by decide, by decide, by decide +kernel, by decide +kernel, opened_contextLegal⟩

/-- The reset state, and a state with an open context at its capacity. -/
theorem reset_inv : Inv State.reset :=
  ⟨by decide, by decide, by decide, by decide, by decide, by decide, fun _ h => absurd h (by simp [State.reset, State.resetWith])⟩

theorem test_witness_StepKeepsTheInvariant :
    (Inv State.reset ∧ ∃ t, step State.reset = .next t) ∧ Inv opened ∧ ∃ t, step opened = .next t :=
  ⟨⟨reset_inv, _, rfl⟩, opened_inv, _, rfl⟩

theorem test_witness_ResetHasTheInvariant : legalParams defaultParams = true ∧
    legalParams { defaultParams with cmax := 28, ioMax := some 4096, reasmCtxMax := some 1 } = true := by decide

/-- The first and the last row. -/
theorem test_witness_ParityMapIsLinearOnTheRows :
    defaultGolayB.length = 12 ∧ defaultGolayB[0]? = some 0xDC5 ∧ defaultGolayB[11]? = some 0xFFE := by decide

/-- `IN` empty, and `IN` as long as `IO_MAX`: the hypothesis of GolayEncCompletes, GolayDecCompletes and every other
statement whose only hypothesis on the state is that `IN` fits. -/
theorem test_witness_InputFits :
    ioFits State.reset.params State.reset.input.length = true ∧
      ioFits bounded.params (withInput bounded (zeroOctets 4096)).input.length = true := by
  decide +kernel

theorem test_witness_GolayEncCompletes : ioFits bounded.params bounded.input.length = true := by decide

theorem test_witness_GolayDecCompletes : ioFits bounded.params bounded.input.length = true := by decide

/-- A word one flip from a codeword, and a word with no pattern of three flips. -/
theorem test_witness_GolayDecodeIsBoundedDistance :
    golayMatrixOk defaultGolayB = true ∧
      (popcount (0x800000 : BitVec 24) ≤ 3 ∧
        golaySyndrome defaultGolayB 0x800000 = golaySyndrome defaultGolayB 0x2BCBF3) ∧
      ∀ e : BitVec 24, popcount e ≤ 3 → golaySyndrome defaultGolayB e ≠ golaySyndrome defaultGolayB 0x00000F :=
  ⟨by decide, by decide +kernel, fun e he => golayError_none (by decide +kernel) e he⟩

/-- No flip, three flips. -/
theorem test_witness_GolayCorrectsUpToThreeErrors : golayMatrixOk defaultGolayB = true ∧
    popcount (0 : BitVec 24) ≤ 3 ∧ popcount (0x800801 : BitVec 24) ≤ 3 := by decide

theorem test_witness_GolayDetectsFourErrors : golayMatrixOk defaultGolayB = true ∧ popcount (0xC00003 : BitVec 24) = 4 := by
  decide

theorem test_witness_Golay3EncCompletes :
    ioFits bounded.params bounded.input.length = true ∧ ioFits bounded.params 9 = true := by decide

/-- Nine octets; eight and ten. -/
theorem test_witness_Golay3DecCompletes :
    (∃ s : State, ioFits s.params s.input.length = true ∧ s.input = [0x2B, 0xCB, 0xF3, 0xAB, 0xCB, 0xF0, 0xAB, 0xCB, 0xF2]) ∧
      (zeroOctets 8).length ≠ 9 ∧ (zeroOctets 10).length ≠ 9 :=
  ⟨⟨withInput State.reset [0x2B, 0xCB, 0xF3, 0xAB, 0xCB, 0xF0, 0xAB, 0xCB, 0xF2], by decide⟩, by decide⟩

/-- The garbled copy first, second, third. -/
theorem test_witness_VoterOutvotesOneBadCopy :
    let c := golayEncode State.reset.params.golayB 0xABC
    golayMatrixOk State.reset.params.golayB = true ∧
      ∀ x ∈ [octets72 ((0x54CBF3 : BitVec 24) ++ c ++ c), octets72 (c ++ (0x54CBF3 : BitVec 24) ++ c),
        octets72 (c ++ c ++ (0x54CBF3 : BitVec 24))],
        ioFits State.reset.params x.length = true ∧ ∃ t, exec .golay3Dec (withInput State.reset x) = .next t := by
  refine ⟨by decide, fun x hx => ⟨?_, _, rfl⟩⟩
  revert x; decide +kernel

/-- An unassigned code, an assigned one without a codec, and code 0. -/
theorem test_witness_ConvInitWritesTheCodecRegister :
    ioFits State.reset.params State.reset.input.length = true ∧ schemeOf State.reset.params 49 = none ∧
      schemeOf State.reset.params 48 = some .noFec ∧ schemeOf State.reset.params 1 = some (.conv .r23) ∧
      schemeOf State.reset.params 0 = some (.conv .r12) := by decide

theorem test_witness_UninitialisedCodecAnswersTheSentinel :
    ioFits State.reset.params State.reset.input.length = true ∧ State.reset.codec.getLsbD 6 = false := by decide

/-- Without a tail and with one, on the empty input and on one octet; and an encoding one octet pair longer than
`IO_MAX`, next to the longest that fits. -/
theorem test_witness_ConvEncCompletes :
    (∀ s ∈ [initialised, tailed, withInput initialised [0xA5], withInput tailed [0xA5]],
      ioFits s.params s.input.length = true ∧ s.codec.getLsbD 6 = true ∧
        ioFits s.params ((16 * s.input.length + 2 * (if s.params.convTail = .zero6 then 6 else 0) + 7) / 8) = true) ∧
      bounded.params.convTail = .none ∧ ioFits bounded.params 2049 = true ∧
      ioFits bounded.params ((16 * 2048 + 2 * 0 + 7) / 8) = true ∧
      ioFits bounded.params ((16 * 2049 + 2 * 0 + 7) / 8) = false := by
  decide

/-- A received sequence of eight pairs with two inputs that end in state 0 at the same distance, and the one that
43_convolutional.md R135 keeps; and one pair at the same distance from both inputs, which end in states 0 and 32. -/
theorem test_witness_ViterbiInvertsTheTerminatedEncoder :
    (let r : Bits := [true, false, true, false, false, false, false, true, true, true, true, true, false, false, true, true]
     let v : Bits := [false, true] ++ List.replicate 6 false
     let v' : Bits := [true, true] ++ List.replicate 6 false
     r.length = 2 * 8 ∧ v.length = 8 ∧ v'.length = 8 ∧ v.foldl encNext 0 = 0 ∧ v'.foldl encNext 0 = 0 ∧
      (List.zipWith xor (convBits .msbCurrent v') r).count true =
        (List.zipWith xor (convBits .msbCurrent v) r).count true ∧
      viterbi .msbCurrent .zero r = v.take (8 - 6)) ∧
      (List.zipWith xor (convBits .msbCurrent [true]) [true, false]).count true =
        (List.zipWith xor (convBits .msbCurrent [false]) [true, false]).count true ∧
      [false].foldl encNext 0 = 0 ∧ [true].foldl encNext 0 = 32 := by
  decide +kernel

/-- One octet (no bit is left) and two octets. -/
theorem test_witness_VitDecCompletes :
    ∀ s ∈ [withInput initialised [0xFF], withInput initialised [0xFF, 0xFF]],
      ioFits s.params s.input.length = true ∧ s.codec.getLsbD 6 = true := by decide

theorem test_witness_StandAloneCodecRoundTrip :
    ∀ s ∈ [tailed, withInput tailed [0xA5]], ioFits s.params (2 * s.input.length + 2) = true ∧
      s.codec.getLsbD 6 = true ∧ s.params.convTail = .zero6 ∧ s.params.tbStart = .zero := by decide

/-- A form whose last octet is part empty. -/
theorem test_witness_FormHoldsTheBitsMsbFirst :
    8 ∈ [1, 2, 4, 8] ∧ (packForm 8 [true, false, true, true, false, false, true, true, true])[1]? = some 0x80 := by decide

/-- Ten bits from tag 1 to tag 8, three from tag 4, none at all. -/
theorem test_witness_PpduRepackCompletes :
    ∀ e ∈ ([((1, 8), 10, [1, 0, 1, 1, 0, 0, 1, 1, 1, 0]), ((4, 8), 3, [0x0F]), ((8, 1), 0, [])] :
        List ((BitVec 4 × BitVec 4) × Word × Bytes)),
      let s := bounded.present 0 e.2.1 e.2.2
      ioFits s.params s.input.length = true ∧ e.1.1.toNat ∈ [1, 2, 4, 8] ∧ e.1.2.toNat ∈ [1, 2, 4, 8] ∧
        s.input.length = (s.opa.toNat + e.1.1.toNat - 1) / e.1.1.toNat ∧ (∀ o ∈ s.input, o.toNat < 2 ^ e.1.1.toNat) ∧
        ioFits s.params ((s.opa.toNat + e.1.2.toNat - 1) / e.1.2.toNat) = true := by decide +kernel

/-- Source tag 3, destination tag 0, a length mismatch, an octet of two at tag 1; and 600 octets to tag 1
(95_test_vectors.md 2.9), 4800 octets where `IO_MAX` is 4096, next to the longest that fits. -/
theorem test_witness_PpduRepackRejectsBadInput :
    ((3 : BitVec 4).toNat ∉ [1, 2, 4, 8] ∧ (0 : BitVec 4).toNat ∉ [1, 2, 4, 8] ∧
      (State.reset.present 0 9 [0xA5]).input.length ≠ ((State.reset.present 0 9 [0xA5]).opa.toNat + 8 - 1) / 8 ∧
      ∃ o ∈ (State.reset.present 0 2 [0x01, 0x02]).input, 2 ^ (1 : BitVec 4).toNat ≤ o.toNat) ∧
      (let s := bounded.present 0 4800 (zeroOctets 600)
       ioFits s.params s.input.length = true ∧ s.input.length = (s.opa.toNat + 8 - 1) / 8 ∧
        (∀ o ∈ s.input, o.toNat < 2 ^ 8) ∧ ioFits s.params ((s.opa.toNat + 1 - 1) / 1) = false) ∧
      ioFits bounded.params ((4096 + 1 - 1) / 1) = true ∧ ioFits bounded.params ((4097 + 1 - 1) / 1) = false :=
  ⟨by decide, ⟨by decide +kernel, by decide +kernel, fun o _ => o.isLt, by decide +kernel⟩, by decide⟩

/-- Tag 8 to tag 1 with whole octets, and tag 4 to tag 8 with a pad bit set in the input. -/
theorem test_witness_RepackingIsLossless :
    (∃ t, exec (.ppduRepack 8 1) (State.reset.present 0 16 [0xA5, 0x3C]) = .next t ∧ t.status = 0) ∧
      ∃ t, exec (.ppduRepack 4 8) (State.reset.present 0 3 [0x0F]) = .next t ∧ t.status = 0 :=
  ⟨⟨_, rfl, by decide +kernel⟩, ⟨_, rfl, by decide +kernel⟩⟩

/-- The default codes and the same codes backwards: the first code, the last, and the least and greatest code of none. -/
theorem test_witness_EverySchemeHasExactlyOneCode :
    (legalParams defaultParams = true ∧ schemeOf defaultParams 48 = some .noFec) ∧
      legalParams { defaultParams with ecCode := defaultEcCode.reverse } = true ∧
      defaultEcCode.reverse[0]? = some 48 ∧ defaultEcCode.reverse[48]? = some 0 ∧ 49 ∉ defaultEcCode.reverse ∧
      63 ∉ defaultEcCode.reverse := by
  decide +kernel

theorem test_witness_UnassignedSchemeIsAnError :
    ioFits State.reset.params State.reset.input.length = true ∧ schemeOf State.reset.params 49 = none ∧
      schemeOf State.reset.params 63 = none := by decide

/-- Codes 0 and 48, 49 and 63, 64. -/
theorem test_witness_SchemeValidCompletes :
    ((State.reset.present 0 48 []).opa.toNat = (48 : BitVec 6).toNat ∧ schemeOf State.reset.params 48 = some .noFec) ∧
      (State.reset.opa.toNat = (0 : BitVec 6).toNat ∧ schemeOf State.reset.params 0 = some (.conv .r12)) ∧
      ((State.reset.present 0 49 []).opa.toNat = (49 : BitVec 6).toNat ∧ schemeOf State.reset.params 49 = none) ∧
      ((State.reset.present 0 63 []).opa.toNat = (63 : BitVec 6).toNat ∧ schemeOf State.reset.params 63 = none) ∧
      64 ≤ (State.reset.present 0 64 []).opa.toNat := by decide

theorem test_witness_SchemeQueriesComplete :
    ioFits State.reset.params State.reset.input.length = true ∧
      schemeOf State.reset.params 44 = some (.qcLdpc .n1944 .r12) := by decide

/-- A payload of one octet and a payload of none; NO_FEC and another scheme. -/
theorem test_witness_SchemeNumFragsCompletes :
    ioFits State.reset.params State.reset.input.length = true ∧ schemeOf State.reset.params 48 = some .noFec ∧
      schemeOf State.reset.params 0 = some (.conv .r12) ∧ (State.reset.present 0 1 []).opa ≠ 0 ∧ State.reset.opa = 0 := by
  decide

theorem test_witness_MessagesFitTheirCodewords :
    legalParams { defaultParams with cmax := 28 } = true ∧ legalParams { defaultParams with cmax := 121856 } = true := by
  decide

/-- Without and with Data Field 1. -/
theorem test_witness_HdrEncCompletes :
    ioFits bounded.params bounded.input.length = true ∧ ioFits bounded.params (9 + false.toNat) = true ∧
      ioFits bounded.params (9 + true.toNat) = true := by decide

/-- Nine octets, ten with Data Field 1, and one fewer than each. -/
theorem test_witness_HdrDecCompletes :
    (octets72 0x780EEA000000000000 = [] ++ [0x78, 0x0E, 0xEA, 0, 0, 0, 0, 0, 0] ++ [] ∧
      ([] : Bytes).length = false.toNat ∧ ([0x80] : Bytes).length = true.toNat) ∧
      (withInput State.reset (zeroOctets 8)).input.length < 9 + false.toNat ∧
      (withInput State.reset (zeroOctets 9)).input.length < 9 + true.toNat := by decide +kernel

/-- An unassigned code is carried; with Data Field 1 too. -/
theorem test_witness_HeaderRoundTrip :
    legalParams bounded.params = true ∧
      (∃ t, exec (.hdrEnc 63 7 false) (bounded.present 0 0x07FFFFFF []) = .next t ∧ t.status = 0 ∧
        ioFits bounded.params (t.out ++ []).length = true) ∧
      ∃ t, exec (.hdrEnc 48 3 true) bounded = .next t ∧ t.status = 0 ∧
        ioFits bounded.params (t.out ++ [0xAA]).length = true :=
  ⟨by decide, ⟨_, rfl, by decide +kernel⟩, ⟨_, rfl, by decide +kernel⟩⟩

/-- Three flips at either end of a word, and none. -/
theorem test_witness_HeaderSurvivesThreeFlipsPerCodeword : golayMatrixOk defaultGolayB = true ∧
    popcount (0xE00000 : BitVec 24) ≤ 3 ∧ popcount (0x000007 : BitVec 24) ≤ 3 ∧ popcount (0 : BitVec 24) ≤ 3 := by decide

/-- Four flips in codeword 0 of the header of scenario 1 (95_test_vectors.md 2.8, "corrupt header"), alone and after
Data Field 1. -/
theorem test_witness_FourFlipsInACodewordDropTheFrame :
    legalParams State.reset.params = true ∧ (zeroOctets 119).length = 119 ∧ popcount (0xF00000 : BitVec 24) = 4 ∧
      (let h := octets72 (be72 (headerOctets State.reset.params.golayB
          { rf := 3, ec := 48, cfi := 0, upl := 0, upfi := 0 }) ^^^
          ((0xF00000 : BitVec 24) ++ (0 : BitVec 24) ++ (0 : BitVec 24)))
       (withInput State.reset (zeroFrame 0x880EEA000000000000)).input =
          (if false then [0x80] else []) ++ h ++ zeroOctets 119 ∧
        (withInput State.reset (0x80 :: zeroFrame 0x880EEA000000000000)).input =
          (if true then [0x80] else []) ++ h ++ zeroOctets 119) := by decide +kernel

/-- The empty packet and the longest. -/
theorem test_witness_FrameCountCompletes :
    legalParams State.reset.params = true ∧
      ioFits State.reset.params (State.reset.present 0 0xFFFFFFFF []).input.length = true ∧
      ioFits State.reset.params State.reset.input.length = true ∧
      schemeOf State.reset.params 32 = some (.turbo .k8920 .r16) := by decide

/-- The longest packet in an unbounded instance, an empty one in a bounded instance, and codewords of two fragments each
(`CMAX = 1904`): the first place, and the last of codewords 0 and 1. -/
theorem test_witness_TxPacketCompletes :
    (∀ e ∈ [(State.reset, 4095), (bounded, 0)],
      let s := withInput e.1 (zeroOctets e.2)
      legalParams s.params = true ∧ ioFits s.params s.input.length = true ∧
        schemeOf s.params 0 = some (.conv .r12) ∧ frameCodec (.conv .r12) = some .convolutional ∧
        s.input.length ≤ 4095 ∧ codewordCount s.params (.conv .r12) s.input.length ≤ 256 ∧
        fragsPerCodeword s.params (.conv .r12) ≤ 128 ∧
        ioFits s.params (codewordCount s.params (.conv .r12) s.input.length *
          fragsPerCodeword s.params (.conv .r12) * (128 + true.toNat)) = true) ∧
      (let s := withInput (State.resetWith { defaultParams with cmax := 1904 }) (zeroOctets 119)
       legalParams s.params = true ∧ ((codewordBits s.params (.conv .r12) + 7) / 8 + 118) / 119 = 2 ∧
        max 1 ((8 * s.input.length + messageBits s.params (.conv .r12) - 1) / messageBits s.params (.conv .r12)) = 2) := by
  decide +kernel

/-- No codec; 4096 octets; 257 codewords (`CMAX = 28`, 257 octets of one each); frames longer than `IO_MAX`. -/
theorem test_witness_TxPacketRefusesInOrder :
    schemeOf State.reset.params 5 = some (.reedSolomon .rs255k239 .i1) ∧
      4095 < (withInput State.reset (zeroOctets 4096)).input.length ∧
      codewordCount { defaultParams with cmax := 28 } (.conv .r12) 256 = 256 ∧
      256 < codewordCount { defaultParams with cmax := 28 } (.conv .r12) 257 ∧
      (schemeOf bounded.params 0 = some (.conv .r12) ∧ ioFits bounded.params 2000 = true ∧
        ioFits bounded.params (frameTotal bounded.params (.conv .r12) 2000 * (128 + false.toNat)) = false) := by
  decide +kernel

/-- A block and a codeword of each implemented scheme. -/
theorem test_witness_CodewordDecodesToItsBlock :
    legalParams defaultParams = true ∧ frameCodec (.conv .r12) = some .convolutional ∧
      (zeroOctets 58).length = blockOctets defaultParams (.conv .r12) ∧
      (zeroOctets 119).length = codewordOctets defaultParams (.conv .r12) ∧ frameCodec .noFec = some .identity ∧
      (zeroOctets 119).length = blockOctets defaultParams .noFec ∧
      (zeroOctets 119).length = codewordOctets defaultParams .noFec := by decide +kernel

/-- The two frames of a 200-octet NO_FEC packet, the second one received first; and one frame alone. -/
theorem test_witness_PacketRoundTripInAnyOrder :
    let s := withInput bounded (zeroOctets 200)
    legalParams s.params = true ∧
      mapLookup ctxCode { upl := BitVec.ofNat 12 s.input.length, ec := 48 } s.reasm = none ∧
      reasmFull s.params s.reasm.length = false ∧
      ∃ t, exec (.txPacket 48 3 false) s = .next t ∧ t.status = 0 ∧
        ([zeroFrame 0x780EEA00CEC880123B] ++ zeroFrame 0x780EEA00CEC8800DC5 :: []).Perm
          (cutFrames t.res1.toNat t.res0.toNat t.out) ∧
        ([] ++ zeroFrame 0x780EEA00CEC880123B :: [zeroFrame 0x780EEA00CEC8800DC5]).Perm
          (cutFrames t.res1.toNat t.res0.toNat t.out) :=
  ⟨by decide, by decide +kernel, by decide, _, rfl, by decide +kernel, by decide +kernel, by decide +kernel⟩

/-- A frame for each refusal of RX_FRAME, in order (95_test_vectors.md 2.8): lengths, header, code, codec, `cfi`,
`upfi`, room. -/
theorem test_witness_RxFrameRefusesInOrder :
    ((zeroOctets 127).length ≠ 128 + false.toNat ∧ (zeroOctets 128).length ≠ 128 + true.toNat) ∧
      (let h := fun x => headerDecode defaultGolayB false (zeroFrame x)
       headerValid (h 0x880EEA000000000000) = false ∧
        (headerValid (h 0x788B53000000000000) = true ∧
          schemeOf defaultParams (h 0x788B53000000000000).fields.ec = none) ∧
        (headerValid (h 0x62884A000000000000) = true ∧
          schemeOf defaultParams (h 0x62884A000000000000).fields.ec = some (.reedSolomon .rs255k239 .i1)) ∧
        (schemeOf defaultParams (h 0x780EEA100E2D000000).fields.ec = some .noFec ∧
          fragsPerCodeword defaultParams .noFec = (h 0x780EEA100E2D000000).fields.cfi.toNat) ∧
        (codewordCount defaultParams .noFec (h 0x780EEA000000001FFE).fields.upl.toNat =
          (h 0x780EEA000000001FFE).fields.upfi.toNat) ∧
        (mapLookup ctxCode { upl := (h 0x780EEA01243EC0064E).fields.upl, ec := (h 0x780EEA01243EC0064E).fields.ec }
            opened.reasm = none ∧
          (h 0x780EEA01243EC0064E).fields.upfi.toNat <
            codewordCount defaultParams .noFec (h 0x780EEA01243EC0064E).fields.upl.toNat)) ∧
      ∃ m, opened.params.reasmCtxMax = some m ∧ m ≤ opened.reasm.length := by
  refine ⟨by decide +kernel, ?_, 1, rfl, by decide +kernel⟩
  decide +kernel

/-- The last frame of a packet whose context is open, and the first frame of a packet. -/
theorem test_witness_RxFrameCompletes :
    legalParams opened.params = true ∧ (zeroFrame 0x780EEA00CEC880123B).length = 128 + false.toNat ∧
      (let h := headerDecode defaultGolayB false (zeroFrame 0x780EEA00CEC880123B)
       (h.ok0 && h.ok1 && h.ok2) = true ∧ schemeOf opened.params h.fields.ec = some .noFec ∧
        frameCodec .noFec = some .identity ∧ h.fields.cfi.toNat < fragsPerCodeword opened.params .noFec ∧
        h.fields.upfi.toNat < codewordCount opened.params .noFec h.fields.upl.toNat ∧
        (mapLookup ctxCode { upl := h.fields.upl, ec := h.fields.ec } opened.reasm).isSome = true ∧
        mapLookup ctxCode { upl := h.fields.upl, ec := h.fields.ec } bounded.reasm = none ∧
        reasmFull bounded.params bounded.reasm.length = false) := by decide +kernel

/-- The first frame again, and its sibling in another packet. -/
theorem test_witness_AcceptedFragmentFillsItsSlotOnly :
    Inv opened ∧ ∃ t, exec (.rxFrame false) (withInput opened (zeroFrame 0x780EEA00CEC8800DC5)) = .next t ∧
      t.status = 0 ∧ res1Kind t = 0 :=
  ⟨opened_inv, _, rfl, by decide +kernel, by decide +kernel⟩

theorem test_witness_RepeatedFrameChangesNothing :
    legalParams bounded.params = true ∧
      ∃ t, exec (.rxFrame false) (withInput bounded (zeroFrame 0x780EEA00CEC8800DC5)) = .next t ∧ t.status = 0 ∧
        res1Kind t = 0 :=
  ⟨by decide, _, rfl, by decide +kernel, by decide +kernel⟩

/-- A key with a context, and keys without one on either side; the state has the invariant. -/
theorem test_witness_DropAndFlushComplete :
    Inv opened ∧ (∃ t, exec (.rxDrop 48) (opened.present 0 200 []) = .next t ∧ t.res0 = 1) ∧
      ioFits opened.params opened.input.length = true ∧
      (mapLookup ctxCode { upl := (opened.present 0 200 []).opa.extractLsb' 0 12, ec := 48 } opened.reasm).isSome = true ∧
      mapLookup ctxCode { upl := (opened.present 0 200 []).opa.extractLsb' 0 12, ec := 47 } opened.reasm = none ∧
      mapLookup ctxCode { upl := (opened.present 0 201 []).opa.extractLsb' 0 12, ec := 48 } opened.reasm = none :=
  ⟨opened_inv, ⟨_, rfl, by decide +kernel⟩, by decide⟩

end Sys2Proof.Tests
end

