-- ==== Sys2Proof/Proofs/Scope.lean ====
section
/-!
PROOFS. 00_scope.md: what a step is on a legal instance (R5), and that every command and every command word ends with
exactly one legal status (R16).

The status half goes from the inside out: each shared way of ending a command leaves a legal status; so each command's
body does, branch by branch; so each command does, whether its input fits `IO_MAX` or not; so each step does.
-/

namespace Sys2Proof.Machine

/-! ### What a step is, by what `CMD` decodes to -/

theorem step_of_command {s : State} {i : Instr} (hp : legalParams s.params = true) (hd : decode s.cmd = .command i) :
    step s = exec i s := by
  rw [step, if_pos hp, hd]

theorem step_of_rejected {s : State} {r : Rejection} (hp : legalParams s.params = true)
    (hd : decode s.cmd = .rejected r) : step s = .next (s.raise .badFormat) := by
  rw [step, if_pos hp, hd]

/-! ### The shared ways of ending a command leave a legal status -/

/-- Of the seven statuses only CodewordUndecodable is never raised (60_exceptions.md R190). -/
theorem statusLegal_statusCode_iff (e : Status) : StatusLegal (statusCode e) ↔ e ≠ .codewordUndecodable := by
  cases e <;> decide

theorem raiseWith_statusLegal (s : State) {e : Status} (he : e ≠ .codewordUndecodable) (r0 r1 : Word) :
    StatusLegal (s.raiseWith e r0 r1).status :=
  (statusLegal_statusCode_iff e).2 he

theorem raise_statusLegal (s : State) {e : Status} (he : e ≠ .codewordUndecodable) : StatusLegal (s.raise e).status :=
  raiseWith_statusLegal s he 0 0

theorem complete_statusLegal (s : State) (r0 r1 : Word) (out : Bytes) : StatusLegal (s.complete r0 r1 out).status :=
  (statusLegal_statusCode_iff .ok).2 (by decide)

/-- Whether or not `OUT` fits `IO_MAX` (60_exceptions.md R192). -/
theorem finish_statusLegal (s s' : State) (r0 r1 : Word) (out : Bytes) :
    StatusLegal (s.finish s' r0 r1 out).status := by
  rcases finish_cases s s' r0 r1 out with ⟨-, h⟩ | ⟨-, h⟩ <;> rw [h]
  · exact complete_statusLegal s' r0 r1 out
  · exact raise_statusLegal s (by decide)

theorem reply_statusLegal (s : State) (r0 r1 : Word) (out : Bytes) : StatusLegal (s.reply r0 r1 out).status :=
  finish_statusLegal s s r0 r1 out

theorem rxStore_statusLegal (s : State) (h : HeaderDecoded) (c : Scheme) (cdc : FrameCodec) (x : Context)
    (payload : Bytes) : StatusLegal (rxStore s h c cdc x payload).status := by
  rcases rxStore_cases s h c cdc x payload with ⟨packet, -, ⟨-, hs⟩ | ⟨-, hs⟩⟩ | ⟨-, hs⟩ <;> rw [hs]
  · exact complete_statusLegal _ _ _ packet
  · exact raise_statusLegal s (by decide)
  · exact complete_statusLegal _ _ _ []

/-! ### Every command ends with a legal status -/

/-- The command has a next state, and `STATUS` there is one of 60_exceptions.md R190. -/
def EndsWithLegalStatus (o : Host.Outcome State Fault Refusal) : Prop := ∃ t, o = .next t ∧ StatusLegal t.status

/-- A command is left with its own body to look at: the check of `IN` before it raises BadFormat. -/
theorem runCommand_endsWithLegalStatus {s : State} {body : State → State} (h : StatusLegal (body s).status) :
    EndsWithLegalStatus (runCommand s body) := by
  obtain ⟨t, ht, ⟨-, rfl⟩ | ⟨-, rfl⟩⟩ := runCommand_next s body
  · exact ⟨_, ht, h⟩
  · exact ⟨_, ht, raise_statusLegal s (by decide)⟩

/-- The refusals of 45_mpdu_framer.md R170 in their order, then the frames. -/
theorem execTxPacket_endsWithLegalStatus (ec : BitVec 6) (rf : BitVec 3) (df1 : Bool) (s : State) :
    EndsWithLegalStatus (execTxPacket ec rf df1 s) := by
  apply runCommand_endsWithLegalStatus
  split
  · exact raise_statusLegal s (by decide)
  split
  · exact raise_statusLegal s (by decide)
  dsimp only
  split_ifs
  · exact raise_statusLegal s (by decide)
  · exact raise_statusLegal s (by decide)
  · exact reply_statusLegal s _ _ _

/-- The refusals of 45_mpdu_framer.md R172 in their order, then the accepted fragment. -/
theorem execRxFrame_endsWithLegalStatus (df1 : Bool) (s : State) : EndsWithLegalStatus (execRxFrame df1 s) := by
  apply runCommand_endsWithLegalStatus
  split
  · exact raiseWith_statusLegal s (by decide) _ _
  dsimp only
  split
  · exact raiseWith_statusLegal s (by decide) _ _
  split
  · exact raiseWith_statusLegal s (by decide) _ _
  split
  · exact raiseWith_statusLegal s (by decide) _ _
  split
  · exact raiseWith_statusLegal s (by decide) _ _
  split
  · exact raiseWith_statusLegal s (by decide) _ _
  · exact rxStore_statusLegal s _ _ _ _ _

/-- The commands by the shape of their bodies: an answer, an answer on either side of a test, an answer after one
refusal, and those with several refusals. -/
theorem exec_endsWithLegalStatus (i : Instr) (s : State) : EndsWithLegalStatus (exec i s) := by
  cases i with
  | golayEnc | golayDec | golay3Enc | hdrEnc ec rf df1 | rxFlush =>
    apply runCommand_endsWithLegalStatus
    exact finish_statusLegal s _ _ _ _
  | convEnc | vitDec | rxDrop ec =>
    apply runCommand_endsWithLegalStatus
    dsimp only
    split
    · exact finish_statusLegal s _ _ _ _
    · exact finish_statusLegal s _ _ _ _
  | golay3Dec | schemeValid | schemeRate ec | schemeCwBits ec | schemeMsgBits ec | hdrDec df1 | frameCount ec =>
    apply runCommand_endsWithLegalStatus
    split
    · exact raiseWith_statusLegal s (by decide) _ _
    · exact reply_statusLegal s _ _ _
  | schemeNumFrags ec =>
    apply runCommand_endsWithLegalStatus
    split
    · exact raise_statusLegal s (by decide)
    split
    · exact raise_statusLegal s (by decide)
    · exact reply_statusLegal s _ _ _
  | convInit ec =>
    apply runCommand_endsWithLegalStatus
    split
    · exact raise_statusLegal (s.setCodec _) (by decide)
    · exact finish_statusLegal s _ _ _ _
    · exact raise_statusLegal (s.setCodec _) (by decide)
  | ppduRepack st dt =>
    apply runCommand_endsWithLegalStatus
    split_ifs
    · exact raise_statusLegal s (by decide)
    · exact raise_statusLegal s (by decide)
    · exact raise_statusLegal s (by decide)
    · exact reply_statusLegal s _ _ _
  | txPacket ec rf df1 => exact execTxPacket_endsWithLegalStatus ec rf df1 s
  | rxFrame df1 => exact execRxFrame_endsWithLegalStatus df1 s

/-- On a legal instance a step runs a command, or a rejected word raises BadFormat (30_encoding.md R63, R67). -/
theorem step_endsWithLegalStatus {s : State} (hp : legalParams s.params = true) : EndsWithLegalStatus (step s) := by
  cases hd : decode s.cmd with
  | command i =>
    rw [step_of_command hp hd]
    exact exec_endsWithLegalStatus i s
  | rejected r =>
    rw [step_of_rejected hp hd]
    exact ⟨_, rfl, raise_statusLegal s (by decide)⟩

/-! ### The obligations -/

/-- Settles O6: the command arm of the step, on a legal instance. -/
theorem stepRunsTheDecodedCommand : Obligations.StepRunsTheDecodedCommand :=
  fun _ _ hp hd => step_of_command hp hd

/-- Settles O8: command by command, and for a command word by what it decodes to. -/
theorem everyCommandEndsWithOneStatus : Obligations.EveryCommandEndsWithOneStatus :=
  ⟨exec_endsWithLegalStatus, fun _ hp => step_endsWithLegalStatus hp⟩

end Sys2Proof.Machine
end

