-- ==== Sys2Proof/Proofs/State.lean ====
section
/-!
PROOFS. 10_state.md: which command writes which state (R32), and that reset has the invariant of a run (R33) and every
step keeps it (R24, R27, R28).

What a command can do to the state is said once, in `Effect`, and `exec_effect` shows it for all twenty commands. The
frame and the invariant are then each a case split over `Effect`. The one case with content is a fragment kept in
`REASM`: that `dec` still holds exactly the decodings of the full codewords is `decodesFull_store`.
-/

namespace Sys2Proof.Machine

/-! ### Finite maps: how many entries, and what an insertion cannot lose -/

section Maps

variable {κ β : Type} {code : κ → Nat}

theorem mapErase_length_le (k : κ) (m : List (κ × β)) : (mapErase code k m).length ≤ m.length := by
  induction m with
  | nil => exact Nat.le_refl 0
  | cons e m ih =>
    unfold mapErase
    split <;> simp [ih]

theorem mapInsert_length_le (k : κ) (v : β) (m : List (κ × β)) : (mapInsert code k v m).length ≤ m.length + 1 := by
  induction m with
  | nil => simp [mapInsert]
  | cons e m ih =>
    unfold mapInsert
    split
    · simp
    · split <;> simp [ih]

/-- In canonical form, writing to a key that is there replaces its entry. -/
theorem mapInsert_length_of_lookup {m : List (κ × β)} (hm : MapSorted code m) {k : κ} {w : β}
    (hk : mapLookup code k m = some w) (v : β) : (mapInsert code k v m).length = m.length := by
  induction m with
  | nil => simp at hk
  | cons e m ih =>
    obtain ⟨he, hm⟩ := List.pairwise_cons.1 hm
    have hle : code e.1 ≤ code k := by
      obtain ⟨a, ha, hc, -⟩ := mem_of_mapLookup hk
      rcases List.mem_cons.1 ha with rfl | ha
      · exact hc.le
      · exact hc ▸ (he a ha).le
    unfold mapInsert
    rw [if_neg (by omega)]
    split
    · simp
    next hne =>
      rw [mapLookup_cons, if_neg (Ne.symm hne)] at hk
      simp [ih hm hk]

theorem mapInsert_ne_nil (k : κ) (v : β) (m : List (κ × β)) : mapInsert code k v m ≠ [] := by
  have h := mapLookup_mapInsert_self (code := code) k v m
  intro hnil
  simp [hnil] at h

/-- A key that was there is there after any insertion. -/
theorem mapLookup_isSome_mapInsert (hcode : ∀ {a b : κ}, code a = code b → a = b) {k' : κ} {m : List (κ × β)}
    (h : (mapLookup code k' m).isSome = true) (k : κ) (v : β) :
    (mapLookup code k' (mapInsert code k v m)).isSome = true := by
  by_cases hk : code k' = code k
  · obtain rfl := hcode hk
    simp [mapLookup_mapInsert_self]
  · rwa [mapLookup_mapInsert_ne hk]

end Maps

/-! ### The codewords of a context before and after a fragment is written (45_mpdu_framer.md R174) -/

theorem storedCodeword_isSome_iff (p : Params) (c : Scheme) (m : List (Slot × Bytes)) (j : BitVec 8) :
    (storedCodeword p c m j).isSome = true ↔ ∀ i < fragsPerCodeword p c, (storedFragment m j i).isSome = true := by
  rw [storedCodeword, Option.isSome_map, gather_isSome_iff]

/-- A context without fragments has no full codeword. -/
theorem storedCodeword_nil {p : Params} {c : Scheme} (hk : 0 < fragsPerCodeword p c) (j : BitVec 8) :
    storedCodeword p c [] j = none := by
  rw [← Option.not_isSome_iff_eq_none, storedCodeword_isSome_iff]
  intro h
  simpa [storedFragment] using h 0 hk

/-- A fragment of one codeword leaves every other codeword as it was. -/
theorem storedCodeword_mapInsert_ne (p : Params) (c : Scheme) {slot : Slot} {j : BitVec 8} (hj : j ≠ slot.upfi)
    (payload : Bytes) (m : List (Slot × Bytes)) :
    storedCodeword p c (mapInsert slotCode slot payload m) j = storedCodeword p c m j := by
  have hfrag : storedFragment (mapInsert slotCode slot payload m) j = storedFragment m j := by
    funext i
    unfold storedFragment
    rw [mapLookup_mapInsert_ne fun h => hj (congrArg Slot.upfi (slotCode_injective h))]
  rw [storedCodeword, storedCodeword, hfrag]

/-- A full codeword stays full. -/
theorem storedCodeword_eq_none_of_mapInsert {p : Params} {c : Scheme} {slot : Slot} {payload : Bytes}
    {m : List (Slot × Bytes)} {j : BitVec 8} (h : storedCodeword p c (mapInsert slotCode slot payload m) j = none) :
    storedCodeword p c m j = none := by
  rw [← Option.not_isSome_iff_eq_none, storedCodeword_isSome_iff] at h ⊢
  refine fun hfull => h fun i hi => ?_
  have hbefore := hfull i hi
  unfold storedFragment at hbefore ⊢
  split_ifs at hbefore ⊢
  · exact mapLookup_isSome_mapInsert slotCode_injective hbefore slot payload
  · simp at hbefore

/-! ### What a context of a run keeps, apart from the packet still being incomplete -/

/-- The slots of a context are in range (45_mpdu_framer.md R172). -/
def SlotsInRange (p : Params) (c : Scheme) (upl : BitVec 12) (x : Context) : Prop :=
  ∀ f ∈ x.frag, f.1.cfi.toNat < fragsPerCodeword p c ∧ f.1.upfi.toNat < codewordCount p c upl.toNat

/-- `dec` holds exactly the decodings of the codewords whose slots are all filled (45_mpdu_framer.md R174). -/
def DecodesFull (p : Params) (c : Scheme) (cdc : FrameCodec) (x : Context) : Prop :=
  ∀ j, mapLookup decCode j x.dec = (storedCodeword p c x.frag j).map (decodeBlock p c cdc)

/-- A context of the invariant has both, for the scheme its key names and the codec of that scheme. -/
theorem ContextLegal.slots_and_dec {p : Params} {key : CtxKey} {x : Context} (hx : ContextLegal p key x) {c : Scheme}
    {cdc : FrameCodec} (hc : schemeOf p key.ec = some c) (hcdc : frameCodec c = some cdc) :
    SlotsInRange p c key.upl x ∧ DecodesFull p c cdc x := by
  obtain ⟨c', cdc', hc', hcdc', hslots, hdec, -⟩ := hx.scheme
  obtain rfl : c' = c := Option.some.inj (hc'.symm.trans hc)
  obtain rfl : cdc' = cdc := Option.some.inj (hcdc'.symm.trans hcdc)
  exact ⟨hslots, hdec⟩

@[simp] theorem decodeCodeword_frag (p : Params) (c : Scheme) (cdc : FrameCodec) (upfi : BitVec 8) (x : Context) :
    (decodeCodeword p c cdc upfi x).frag = x.frag := by
  unfold decodeCodeword
  split <;> rfl

theorem slotsInRange_putFragment {p : Params} {c : Scheme} {upl : BitVec 12} {x : Context}
    (hx : SlotsInRange p c upl x) {slot : Slot} (hcfi : slot.cfi.toNat < fragsPerCodeword p c)
    (hupfi : slot.upfi.toNat < codewordCount p c upl.toNat) (payload : Bytes) :
    SlotsInRange p c upl (putFragment x slot payload) := by
  intro f hf
  rcases mem_mapInsert hf with rfl | hf
  · exact ⟨hcfi, hupfi⟩
  · exact hx f hf

/-- Writing a fragment and then decoding its codeword if it is full keeps `dec` exact: another codeword is untouched,
the fragment's own is decoded anew, or is not full and so was not full before either (45_mpdu_framer.md R174). -/
theorem decodesFull_store {p : Params} {c : Scheme} {cdc : FrameCodec} {x : Context} (hx : DecodesFull p c cdc x)
    (slot : Slot) (payload : Bytes) :
    DecodesFull p c cdc (decodeCodeword p c cdc slot.upfi (putFragment x slot payload)) := by
  intro j
  rw [decodeCodeword_frag]
  unfold decodeCodeword putFragment
  dsimp only
  by_cases hj : j = slot.upfi
  · subst hj
    cases hw : storedCodeword p c (mapInsert slotCode slot payload x.frag) slot.upfi with
    | some w => exact mapLookup_mapInsert_self _ _ _
    | none =>
      have hbefore := hx slot.upfi
      rwa [storedCodeword_eq_none_of_mapInsert hw] at hbefore
  · rw [storedCodeword_mapInsert_ne p c hj, ← hx j]
    split
    · exact mapLookup_mapInsert_ne (fun h => hj (decCode_injective h)) _ _
    · rfl

/-! ### What a command can do to the state, said once -/

/-- `t` is `w` after its results are written: a completion, or a raised status (60_exceptions.md R191). -/
inductive WritesResults (w : State) : State → Prop
  | completes (r0 r1 : Word) {out : Bytes} (hout : ioFits w.params out.length = true) :
    WritesResults w (w.complete r0 r1 out)
  | raises (e : Status) (r0 r1 : Word) : WritesResults w (w.raiseWith e r0 r1)

/-- RX_FRAME has passed all its checks for a frame with header `h` (45_mpdu_framer.md R172): what it goes on with is the
scheme and its codec, the context of the key, and 119 octets of payload. -/
structure Accepts (s : State) (h : HeaderDecoded) (c : Scheme) (cdc : FrameCodec) (x : Context) (payload : Bytes) :
    Prop where
  scheme : schemeOf s.params h.fields.ec = some c
  codec : frameCodec c = some cdc
  cfi : h.fields.cfi.toNat < fragsPerCodeword s.params c
  upfi : h.fields.upfi.toNat < codewordCount s.params c h.fields.upl.toNat
  room : openContext s { upl := h.fields.upl, ec := h.fields.ec } = some x
  payload : payload.length = mtu

/-- The states a command can leave (10_state.md R32): any command may write its results alone; the other cases are those
of the five commands that write more. -/
inductive Effect (s : State) : Instr → State → Prop
  | answers {i : Instr} {t : State} (ht : WritesResults s t) : Effect s i t
  | initialises (ec : BitVec 6) {codec : BitVec 7} {t : State} (hc : CodecLegal s.params codec)
    (ht : WritesResults (s.setCodec codec) t) : Effect s (.convInit ec) t
  | decodes (r0 r1 : Word) {out : Bytes} (hout : ioFits s.params out.length = true) :
    Effect s .vitDec (s.leaveScratch.complete r0 r1 out)
  | drops (ec : BitVec 6) (key : CtxKey) (r0 r1 : Word) :
    Effect s (.rxDrop ec) ((s.setReasm (mapErase ctxCode key s.reasm)).complete r0 r1 [])
  | flushes (r0 r1 : Word) : Effect s .rxFlush ((s.setReasm []).complete r0 r1 [])
  | stores (df1 : Bool) {h : HeaderDecoded} {c : Scheme} {cdc : FrameCodec} {x : Context} {payload : Bytes}
    (ha : Accepts s h c cdc x payload) : Effect s (.rxFrame df1) (rxStore s h c cdc x payload)

theorem effect_raiseWith (s : State) (i : Instr) (e : Status) (r0 r1 : Word) : Effect s i (s.raiseWith e r0 r1) :=
  .answers (.raises e r0 r1)

theorem effect_raise (s : State) (i : Instr) (e : Status) : Effect s i (s.raise e) := effect_raiseWith s i e 0 0

theorem effect_reply (s : State) (i : Instr) (r0 r1 : Word) (out : Bytes) : Effect s i (s.reply r0 r1 out) := by
  rcases finish_cases s s r0 r1 out with ⟨hout, h⟩ | ⟨-, h⟩ <;> rw [State.reply, h]
  · exact .answers (.completes r0 r1 hout)
  · exact effect_raise s i .badFormat

/-- A command has a next state, with an effect of that command. -/
def HasEffect (s : State) (i : Instr) (o : Host.Outcome State Fault Refusal) : Prop :=
  ∃ t, o = .next t ∧ Effect s i t

/-- A command is left with its own body to look at: the check of `IN` before it raises BadFormat. -/
theorem runCommand_hasEffect {s : State} {i : Instr} {body : State → State} (h : Effect s i (body s)) :
    HasEffect s i (runCommand s body) := by
  obtain ⟨t, ht, ⟨-, rfl⟩ | ⟨-, rfl⟩⟩ := runCommand_next s body
  · exact ⟨_, ht, h⟩
  · exact ⟨_, ht, effect_raise s i .badFormat⟩

@[simp] theorem codecInit_packCodec (init : Bool) (ec : BitVec 6) : codecInit (packCodec init ec) = init := by
  rw [codecInit, packCodec, BitVec.getLsbD_append]
  simp

@[simp] theorem codecScheme_packCodec (init : Bool) (ec : BitVec 6) : codecScheme (packCodec init ec) = ec := by
  refine BitVec.eq_of_getLsbD_eq fun i hi => ?_
  rw [codecScheme, packCodec, BitVec.getLsbD_extractLsb', BitVec.getLsbD_append]
  simp [hi]

/-- CONV_INIT marks `CODEC` initialised only with the code of the R=1/2 scheme (43_convolutional.md R130). -/
theorem execConvInit_hasEffect (ec : BitVec 6) (s : State) : HasEffect s (.convInit ec) (execConvInit ec s) := by
  apply runCommand_hasEffect
  split
  · exact .initialises ec (by simp [CodecLegal]) (.raises _ 0 0)
  next hec =>
    rw [finish_nil]
    exact .initialises ec (fun _ => by rw [codecScheme_packCodec, hec]) (.completes 0 0 (by simp))
  · exact .initialises ec (by simp [CodecLegal]) (.raises _ 0 0)

theorem execVitDec_hasEffect (s : State) : HasEffect s .vitDec (execVitDec s) := by
  apply runCommand_hasEffect
  dsimp only
  split
  · exact effect_reply s _ _ _ _
  · rcases finish_cases s s.leaveScratch 0 _ _ with ⟨hout, hf⟩ | ⟨-, hf⟩ <;> rw [hf]
    · exact .decodes 0 _ hout
    · exact effect_raise s _ .badFormat

theorem execTxPacket_hasEffect (ec : BitVec 6) (rf : BitVec 3) (df1 : Bool) (s : State) :
    HasEffect s (.txPacket ec rf df1) (execTxPacket ec rf df1 s) := by
  apply runCommand_hasEffect
  split
  · exact effect_raise s _ _
  split
  · exact effect_raise s _ _
  dsimp only
  split_ifs
  · exact effect_raise s _ _
  · exact effect_raise s _ _
  · exact effect_reply s _ _ _ _

/-- The refusals of 45_mpdu_framer.md R172 in their order; a frame that passes them all is accepted. -/
theorem execRxFrame_hasEffect (df1 : Bool) (s : State) : HasEffect s (.rxFrame df1) (execRxFrame df1 s) := by
  apply runCommand_hasEffect
  split
  · exact effect_raiseWith s _ _ _ _
  next hlen =>
  dsimp only
  split
  · exact effect_raiseWith s _ _ _ _
  split
  · exact effect_raiseWith s _ _ _ _
  next c hscheme =>
  split
  · exact effect_raiseWith s _ _ _ _
  next cdc hcodec =>
  split
  · exact effect_raiseWith s _ _ _ _
  next hrange =>
  split
  · exact effect_raiseWith s _ _ _ _
  next x hroom =>
  rw [not_or, Nat.not_le, Nat.not_le] at hrange
  have hpayload : (s.input.drop (hdrLen + df1.toNat)).length = mtu := by
    simp only [frameOctets, mpduLen, ne_eq, Decidable.not_not] at hlen
    simp only [List.length_drop, hlen, hdrLen, mtu]
    omega
  exact .stores df1 ⟨hscheme, hcodec, hrange.1, hrange.2, hroom, hpayload⟩

/-- The commands by the shape of their bodies, the ones with a body of their own last. -/
theorem exec_hasEffect (i : Instr) (s : State) : HasEffect s i (exec i s) := by
  cases i with
  | golayEnc | golayDec | golay3Enc | hdrEnc ec rf df1 =>
    apply runCommand_hasEffect
    exact effect_reply s _ _ _ _
  | golay3Dec | schemeValid | schemeRate ec | schemeCwBits ec | schemeMsgBits ec | hdrDec df1 | frameCount ec =>
    apply runCommand_hasEffect
    split
    · exact effect_raiseWith s _ _ _ _
    · exact effect_reply s _ _ _ _
  | convEnc =>
    apply runCommand_hasEffect
    dsimp only
    split
    · exact effect_reply s _ _ _ _
    · exact effect_reply s _ _ _ _
  | schemeNumFrags ec =>
    apply runCommand_hasEffect
    split
    · exact effect_raise s _ _
    split
    · exact effect_raise s _ _
    · exact effect_reply s _ _ _ _
  | ppduRepack st dt =>
    apply runCommand_hasEffect
    split_ifs
    · exact effect_raise s _ _
    · exact effect_raise s _ _
    · exact effect_raise s _ _
    · exact effect_reply s _ _ _ _
  | rxDrop ec =>
    apply runCommand_hasEffect
    dsimp only
    split
    · rw [finish_nil]
      exact .drops ec _ 1 0
    · exact effect_reply s _ _ _ _
  | rxFlush =>
    apply runCommand_hasEffect
    rw [finish_nil]
    exact .flushes _ 0
  | convInit ec => exact execConvInit_hasEffect ec s
  | vitDec => exact execVitDec_hasEffect s
  | txPacket ec rf df1 => exact execTxPacket_hasEffect ec rf df1 s
  | rxFrame df1 => exact execRxFrame_hasEffect df1 s

/-- Every next state of a command is one of the cases of `Effect`. -/
theorem exec_effect {i : Instr} {s t : State} (h : exec i s = .next t) : Effect s i t := by
  obtain ⟨u, hu, heffect⟩ := exec_hasEffect i s
  obtain rfl := Host.Outcome.next.inj (hu.symm.trans h)
  exact heffect

/-! ### The frame of each command (10_state.md R32) -/

theorem scratchAfterStore_frame (p : Params) (c : Scheme) (cdc : FrameCodec) (x : Context) (upfi : BitVec 8)
    (s : State) :
    let s1 := scratchAfterStore p c cdc x upfi s
    s1.cmd = s.cmd ∧ s1.opa = s.opa ∧ s1.input = s.input ∧ s1.params = s.params ∧ s1.codec = s.codec := by
  intro s1
  rcases scratchAfterStore_cases p c cdc x upfi s with ⟨h, -⟩ | h <;> simp [s1, h]

/-- Storing a fragment writes the results, `REASM` and the scratch, and `REASM` only with `OK`. -/
theorem rxStore_frame (s : State) (h : HeaderDecoded) (c : Scheme) (cdc : FrameCodec) (x : Context) (payload : Bytes) :
    let t := rxStore s h c cdc x payload
    t.cmd = s.cmd ∧ t.opa = s.opa ∧ t.input = s.input ∧ t.params = s.params ∧ t.codec = s.codec ∧
      (t.status ≠ 0 → t.reasm = s.reasm) := by
  intro t
  rcases rxStore_cases s h c cdc x payload with ⟨packet, -, ⟨-, ht⟩ | ⟨-, ht⟩⟩ | ⟨-, ht⟩
  · simp [t, ht, scratchAfterStore_frame, statusCode]
  · simp [t, ht]
  · simp [t, ht, scratchAfterStore_frame, statusCode]

/-- Settles O12: what each case of `Effect` writes. -/
theorem commandsWriteOnlyTheirOwnState : Obligations.CommandsWriteOnlyTheirOwnState := by
  intro i s t h
  cases exec_effect h with
  | answers ht => cases ht <;> simp
  | initialises ec hc ht => cases ht <;> simp
  | decodes r0 r1 hout => simp
  | drops ec key r0 r1 => simp [statusCode]
  | flushes r0 r1 => simp [statusCode]
  | @stores df1 hdr c cdc x payload ha =>
    obtain ⟨hcmd, hopa, hinput, hparams, hcodec, hreasm⟩ := rxStore_frame s hdr c cdc x payload
    simpa [hcmd, hopa, hinput, hparams, hcodec] using hreasm

/-! ### What the invariant asks of each write -/

/-- Writing results asks only for a legal `STATUS`: `OUT` fits `IO_MAX` in both cases, and is empty after an error. -/
theorem Inv.writesResults {w t : State} (hw : Inv w) (ht : WritesResults w t) (hs : StatusLegal t.status) : Inv t := by
  cases ht with
  | completes r0 r1 hout => exact ⟨hw.legal, hs, hout, hw.codec, hw.wf, hw.capacity, hw.contexts⟩
  | raises e r0 r1 => exact ⟨hw.legal, hs, ioFits_zero _, hw.codec, hw.wf, hw.capacity, hw.contexts⟩

theorem Inv.complete {w : State} (hw : Inv w) (r0 r1 : Word) {out : Bytes} (hout : ioFits w.params out.length = true) :
    Inv (w.complete r0 r1 out) :=
  hw.writesResults (.completes r0 r1 hout) (complete_statusLegal w r0 r1 out)

theorem Inv.raise {w : State} (hw : Inv w) {e : Status} (he : e ≠ .codewordUndecodable) : Inv (w.raise e) :=
  hw.writesResults (.raises e 0 0) (raise_statusLegal w he)

theorem Inv.setCodec {s : State} (hs : Inv s) {c : BitVec 7} (hc : CodecLegal s.params c) : Inv (s.setCodec c) :=
  { hs with codec := hc }

theorem Inv.leaveScratch {s : State} (hs : Inv s) : Inv s.leaveScratch := { hs with }

theorem Inv.scratchAfterStore {s : State} (hs : Inv s) (p : Params) (c : Scheme) (cdc : FrameCodec) (x : Context)
    (upfi : BitVec 8) : Inv (scratchAfterStore p c cdc x upfi s) := by
  rcases scratchAfterStore_cases p c cdc x upfi s with ⟨h, -⟩ | h <;> rw [h]
  · exact hs.leaveScratch
  · exact hs

/-- `REASM` is canonical, within the capacity, and every context is legal: what the invariant asks of it. -/
structure ReasmOk (p : Params) (m : List (CtxKey × Context)) : Prop where
  wf : ReasmWf m
  capacity : CtxCountOk p m.length
  contexts : ∀ e ∈ m, ContextLegal p e.1 e.2

theorem Inv.reasmOk {s : State} (hs : Inv s) : ReasmOk s.params s.reasm := ⟨hs.wf, hs.capacity, hs.contexts⟩

theorem Inv.setReasm {s : State} (hs : Inv s) {m : List (CtxKey × Context)} (hm : ReasmOk s.params m) :
    Inv (s.setReasm m) :=
  { hs with wf := hm.wf, capacity := hm.capacity, contexts := hm.contexts }

theorem reasmOk_nil (p : Params) : ReasmOk p [] :=
  ⟨reasmWf_nil, fun _ _ => Nat.zero_le _, by simp⟩

theorem ReasmOk.mapErase {p : Params} {m : List (CtxKey × Context)} (hm : ReasmOk p m) (key : CtxKey) :
    ReasmOk p (mapErase ctxCode key m) :=
  ⟨reasmWf_mapErase hm.wf key, fun n hn => (mapErase_length_le key m).trans (hm.capacity n hn),
    fun e he => hm.contexts e (mem_mapErase he)⟩

/-! ### An accepted fragment kept in `REASM` -/

/-- There is room for the context of an accepted frame: it is open already, or `REASM` was not full
(45_mpdu_framer.md R178). -/
theorem ctxCountOk_mapInsert {s : State} (hs : Inv s) {key : CtxKey} {x : Context} (hx : openContext s key = some x)
    (y : Context) : CtxCountOk s.params (mapInsert ctxCode key y s.reasm).length := by
  intro n hn
  unfold openContext at hx
  split at hx
  next hopen =>
    rw [mapInsert_length_of_lookup hs.wf.1 hopen]
    exact hs.capacity n hn
  next =>
    split at hx
    · cases hx
    next hroom =>
      have hlt : s.reasm.length < n := by simpa [reasmFull, hn] using hroom
      exact (mapInsert_length_le key y s.reasm).trans hlt

/-- The context an accepted frame is stored in: one of the invariant, or a new one with nothing in it
(45_mpdu_framer.md R173). -/
theorem openContext_slots_and_dec {s : State} (hs : Inv s) {key : CtxKey} {x : Context}
    (hx : openContext s key = some x) {c : Scheme} {cdc : FrameCodec} (hc : schemeOf s.params key.ec = some c)
    (hcdc : frameCodec c = some cdc) (hk : 0 < fragsPerCodeword s.params c) :
    SlotsInRange s.params c key.upl x ∧ DecodesFull s.params c cdc x := by
  unfold openContext at hx
  split at hx
  next hopen =>
    obtain ⟨e, he, hkey, rfl⟩ := mem_of_mapLookup hopen
    cases hx
    obtain rfl := ctxCode_injective hkey
    exact (hs.contexts e he).slots_and_dec hc hcdc
  next =>
    split at hx
    · cases hx
    · cases hx
      exact ⟨by simp [SlotsInRange, emptyContext], fun j => by simp [emptyContext, storedCodeword_nil hk]⟩

/-- A context that keeps an accepted fragment is legal while its packet is incomplete (45_mpdu_framer.md R174, R175). -/
theorem contextLegal_store {s : State} (hs : Inv s) {h : HeaderDecoded} {c : Scheme} {cdc : FrameCodec} {x : Context}
    {payload : Bytes} (ha : Accepts s h c cdc x payload) :
    let x2 := decodeCodeword s.params c cdc h.fields.upfi
      (putFragment x { upfi := h.fields.upfi, cfi := h.fields.cfi } payload)
    storedPacket s.params c h.fields.upl x2.dec = none →
      ContextLegal s.params { upl := h.fields.upl, ec := h.fields.ec } x2 := by
  intro x2 hincomplete
  obtain ⟨hslots, hdec⟩ := openContext_slots_and_dec hs ha.room ha.scheme ha.codec (Nat.zero_lt_of_lt ha.cfi)
  have hslots2 : SlotsInRange s.params c h.fields.upl x2 := by
    intro f hf
    rw [decodeCodeword_frag] at hf
    exact slotsInRange_putFragment hslots ha.cfi ha.upfi payload f hf
  refine ⟨⟨c, cdc, ha.scheme, ha.codec, hslots2, decodesFull_store hdec _ payload, hincomplete⟩, ?_⟩
  rw [decodeCodeword_frag]
  exact mapInsert_ne_nil _ payload x.frag

/-- `REASM` with an accepted fragment kept in it. -/
theorem reasmOk_store {s : State} (hs : Inv s) {h : HeaderDecoded} {c : Scheme} {cdc : FrameCodec} {x : Context}
    {payload : Bytes} (ha : Accepts s h c cdc x payload) :
    let x2 := decodeCodeword s.params c cdc h.fields.upfi
      (putFragment x { upfi := h.fields.upfi, cfi := h.fields.cfi } payload)
    storedPacket s.params c h.fields.upl x2.dec = none →
      ReasmOk s.params (mapInsert ctxCode { upl := h.fields.upl, ec := h.fields.ec } x2 s.reasm) := by
  intro x2 hincomplete
  have hwf := decodeCodeword_wf
    (putFragment_wf (openContext_wf hs.wf ha.room) { upfi := h.fields.upfi, cfi := h.fields.cfi } ha.payload)
    s.params c cdc h.fields.upfi
  refine ⟨reasmWf_mapInsert hs.wf _ hwf, ctxCountOk_mapInsert hs ha.room x2, fun e he => ?_⟩
  rcases mem_mapInsert he with rfl | he
  · exact contextLegal_store hs ha hincomplete
  · exact hs.contexts e he

/-- Storing an accepted fragment keeps the invariant, whether the packet is delivered, is longer than `IO_MAX`, or is
still incomplete. -/
theorem inv_rxStore {s : State} (hs : Inv s) {h : HeaderDecoded} {c : Scheme} {cdc : FrameCodec} {x : Context}
    {payload : Bytes} (ha : Accepts s h c cdc x payload) : Inv (rxStore s h c cdc x payload) := by
  have hs1 := hs.scratchAfterStore s.params c cdc
    (putFragment x { upfi := h.fields.upfi, cfi := h.fields.cfi } payload) h.fields.upfi
  obtain ⟨-, -, -, hp, -⟩ := scratchAfterStore_frame s.params c cdc
    (putFragment x { upfi := h.fields.upfi, cfi := h.fields.cfi } payload) h.fields.upfi s
  rcases rxStore_cases s h c cdc x payload with ⟨packet, -, ⟨hout, ht⟩ | ⟨-, ht⟩⟩ | ⟨hincomplete, ht⟩ <;> rw [ht]
  · refine (hs1.setReasm ?_).complete _ _ (by simpa [hp] using hout)
    rw [hp]
    exact hs.reasmOk.mapErase _
  · exact hs.raise (by decide)
  · refine (hs1.setReasm ?_).complete _ _ (by simp)
    rw [hp]
    exact reasmOk_store hs ha hincomplete

/-! ### The invariant of a run -/

/-- Case by case over what the command can do to the state. -/
theorem exec_keeps_inv {i : Instr} {s t : State} (hs : Inv s) (h : exec i s = .next t) : Inv t := by
  have hstatus : StatusLegal t.status := by
    obtain ⟨u, hu, hst⟩ := exec_endsWithLegalStatus i s
    obtain rfl := Host.Outcome.next.inj (hu.symm.trans h)
    exact hst
  cases exec_effect h with
  | answers ht => exact hs.writesResults ht hstatus
  | initialises ec hc ht => exact (hs.setCodec hc).writesResults ht hstatus
  | decodes r0 r1 hout => exact hs.leaveScratch.complete r0 r1 hout
  | drops ec key r0 r1 => exact (hs.setReasm (hs.reasmOk.mapErase key)).complete r0 r1 (ioFits_zero _)
  | flushes r0 r1 => exact (hs.setReasm (reasmOk_nil s.params)).complete r0 r1 (ioFits_zero _)
  | stores df1 ha => exact inv_rxStore hs ha

/-- Settles O17: a step of a legal instance runs a command, or a rejected word raises BadFormat. -/
theorem stepKeepsTheInvariant : Obligations.StepKeepsTheInvariant := by
  intro s t hs h
  cases hd : decode s.cmd with
  | command i =>
    rw [step_of_command hs.legal hd] at h
    exact exec_keeps_inv hs h
  | rejected r =>
    rw [step_of_rejected hs.legal hd] at h
    obtain rfl := Host.Outcome.next.inj h
    exact hs.raise (by decide)

/-- Settles O18: `STATUS` 0, `CODEC` not initialised, `OUT` and `REASM` empty. -/
theorem resetHasTheInvariant : Obligations.ResetHasTheInvariant := by
  intro p hp
  obtain ⟨hwf, hcapacity, hcontexts⟩ := reasmOk_nil p
  have hcodec : CodecLegal p 0 := fun h => absurd h (by decide)
  exact ⟨hp, by simp [StatusLegal], ioFits_zero p, hcodec, hwf, hcapacity, hcontexts⟩

end Sys2Proof.Machine
end

/-!
PROOFS. 20_memory.md: a repeated frame changes nothing while its context is open (R48).

Writing a key of a finite map twice with one value is writing it once; so is storing a fragment in its slot, and decoding
its codeword. The context an accepted frame leaves is therefore the one its repeat leaves. What is left is that the repeat
passes the same checks: `acceptsFrame_of_exec_rxFrame` takes a frame answered `OK` apart into the checks it passed, and
`exec_rxFrame_of_acceptsFrame` runs them forward again.
-/

namespace Sys2Proof.Machine

/-! ### Writing twice is writing once -/

theorem mapInsert_mapInsert_self {κ β : Type} {code : κ → Nat} (k : κ) (v : β) (m : List (κ × β)) :
    mapInsert code k v (mapInsert code k v m) = mapInsert code k v m := by
  induction m with
  | nil => simp [mapInsert]
  | cons e m ih =>
    by_cases hlt : code k < code e.1
    · simp [mapInsert, hlt]
    · by_cases heq : code k = code e.1
      · simp [mapInsert, heq]
      · simp [mapInsert, hlt, heq, ih]

/-- A fragment that its slot holds already is written without effect. -/
theorem putFragment_eq_self {x : Context} {slot : Slot} {payload : Bytes}
    (h : mapInsert slotCode slot payload x.frag = x.frag) : putFragment x slot payload = x := by
  rw [putFragment, h]

theorem decodeCodeword_decodeCodeword_self (p : Params) (c : Scheme) (cdc : FrameCodec) (upfi : BitVec 8) (x : Context) :
    decodeCodeword p c cdc upfi (decodeCodeword p c cdc upfi x) = decodeCodeword p c cdc upfi x := by
  cases hw : storedCodeword p c x.frag upfi with
  | none => simp only [decodeCodeword, hw]
  | some w => simp only [decodeCodeword, hw, mapInsert_mapInsert_self]

/-- The context `x` with an accepted fragment in it, and the codeword it completes decoded (45_mpdu_framer.md R174). -/
def storedContext (p : Params) (h : HeaderDecoded) (c : Scheme) (cdc : FrameCodec) (x : Context) (payload : Bytes) :
    Context :=
  decodeCodeword p c cdc h.fields.upfi (putFragment x { upfi := h.fields.upfi, cfi := h.fields.cfi } payload)

theorem storedContext_frag (p : Params) (h : HeaderDecoded) (c : Scheme) (cdc : FrameCodec) (x : Context)
    (payload : Bytes) :
    (storedContext p h c cdc x payload).frag =
      mapInsert slotCode { upfi := h.fields.upfi, cfi := h.fields.cfi } payload x.frag :=
  decodeCodeword_frag _ _ _ _ _

/-- The slot holds the same octets already, and the codeword is decoded from the same slots. -/
theorem storedContext_storedContext_self (p : Params) (h : HeaderDecoded) (c : Scheme) (cdc : FrameCodec) (x : Context)
    (payload : Bytes) :
    storedContext p h c cdc (storedContext p h c cdc x payload) payload = storedContext p h c cdc x payload := by
  have hslot : putFragment (storedContext p h c cdc x payload) { upfi := h.fields.upfi, cfi := h.fields.cfi } payload =
      storedContext p h c cdc x payload :=
    putFragment_eq_self (by rw [storedContext_frag, mapInsert_mapInsert_self])
  calc storedContext p h c cdc (storedContext p h c cdc x payload) payload
      = decodeCodeword p c cdc h.fields.upfi (storedContext p h c cdc x payload) := by rw [storedContext, hslot]
    _ = storedContext p h c cdc x payload := decodeCodeword_decodeCodeword_self _ _ _ _ _

/-! ### A fragment that is kept -/

/-- A raised status other than `OK` is not answered as `OK`. -/
theorem eq_ok_of_raiseWith_status {s : State} {e : Status} {r0 r1 : Word} (h : (s.raiseWith e r0 r1).status = 0) :
    e = .ok := by
  revert h
  rw [raiseWith_status]
  cases e <;> decide

/-- Bits 22:21 of `HPACK_B` are the kind: below it stand `uhf`, the four validity bits, `rf` and `ec` (30_encoding.md
R65). -/
theorem extract_kind_hpackB (ec : BitVec 6) (rf : BitVec 3) (valid ok0 ok1 ok2 : Bool) (uhf : BitVec 8)
    (kind : BitVec 2) : (hpackB ec rf valid ok0 ok1 ok2 uhf kind).extractLsb' 21 2 = kind := by
  unfold hpackB
  iterate 7 rw [BitVec.extractLsb'_append_eq_of_le (by decide)]
  exact BitVec.extractLsb'_append_eq_right

theorem res1Kind_complete_headerRes1 (w : State) (r0 : Word) (h : HeaderDecoded) (kind : FrameKind) (out : Bytes) :
    res1Kind (w.complete r0 (headerRes1 h kind) out) = kindCode kind :=
  extract_kind_hpackB _ _ _ _ _ _ _ _

/-- What storing a fragment leaves when its packet is still incomplete (45_mpdu_framer.md R172). -/
structure KeepsFragment (s : State) (h : HeaderDecoded) (c : Scheme) (cdc : FrameCodec) (x : Context) (payload : Bytes)
    (t : State) : Prop where
  status : t.status = 0
  res0 : t.res0 = headerRes0 h
  res1 : t.res1 = headerRes1 h .fragmentAccepted
  out : t.out = []
  reasm : t.reasm =
    mapInsert ctxCode { upl := h.fields.upl, ec := h.fields.ec } (storedContext s.params h c cdc x payload) s.reasm

theorem rxStore_keepsFragment {s : State} {h : HeaderDecoded} {c : Scheme} {cdc : FrameCodec} {x : Context}
    {payload : Bytes}
    (hincomplete : storedPacket s.params c h.fields.upl (storedContext s.params h c cdc x payload).dec = none) :
    KeepsFragment s h c cdc x payload (rxStore s h c cdc x payload) := by
  rcases rxStore_cases s h c cdc x payload with ⟨packet, hpacket, -⟩ | ⟨-, ht⟩
  · rw [← storedContext, hincomplete] at hpacket
    cases hpacket
  · rw [ht]
    exact ⟨rfl, rfl, rfl, rfl, rfl⟩

/-- `OK` with kind 0 is the answer of an incomplete packet only: a delivery has kind 1, a refusal another status. -/
theorem storedPacket_eq_none_of_rxStore {s : State} {h : HeaderDecoded} {c : Scheme} {cdc : FrameCodec} {x : Context}
    {payload : Bytes} (hstatus : (rxStore s h c cdc x payload).status = 0)
    (hkind : res1Kind (rxStore s h c cdc x payload) = 0) :
    storedPacket s.params c h.fields.upl (storedContext s.params h c cdc x payload).dec = none := by
  rcases rxStore_cases s h c cdc x payload with ⟨packet, -, ⟨-, ht⟩ | ⟨-, ht⟩⟩ | ⟨hincomplete, -⟩
  · rw [ht, res1Kind_complete_headerRes1] at hkind
    exact absurd hkind (by decide)
  · rw [ht] at hstatus
    cases eq_ok_of_raiseWith_status hstatus
  · exact hincomplete

/-! ### The checks of RX_FRAME, there and back (45_mpdu_framer.md R172) -/

/-- The frame in `IN` passes every check of RX_FRAME: its header decodes to `h` and its other octets are `payload`. -/
structure AcceptsFrame (df1 : Bool) (s : State) (h : HeaderDecoded) (c : Scheme) (cdc : FrameCodec) (x : Context)
    (payload : Bytes) : Prop where
  fits : ioFits s.params s.input.length = true
  length : s.input.length = frameOctets df1
  header : headerDecode s.params.golayB df1 s.input = h
  valid : headerValid h = true
  octets : s.input.drop (hdrLen + df1.toNat) = payload
  accepts : Accepts s h c cdc x payload

/-- The payload of a frame is 119 octets (00_scope.md R7). -/
theorem drop_header_length {df1 : Bool} {input : Bytes} (h : input.length = frameOctets df1) :
    (input.drop (hdrLen + df1.toNat)).length = mtu := by
  simp only [List.length_drop, h, frameOctets, mpduLen, hdrLen, mtu]
  omega

theorem exec_rxFrame (df1 : Bool) (s : State) : exec (.rxFrame df1) s = execRxFrame df1 s := by rfl

theorem exec_rxFrame_of_acceptsFrame {df1 : Bool} {s : State} {h : HeaderDecoded} {c : Scheme} {cdc : FrameCodec}
    {x : Context} {payload : Bytes} (hs : AcceptsFrame df1 s h c cdc x payload) :
    exec (.rxFrame df1) s = .next (rxStore s h c cdc x payload) := by
  obtain ⟨hfits, hlength, hheader, hvalid, hoctets, hscheme, hcodec, hcfi, hupfi, hroom, -⟩ := hs
  have hrange := not_or.2 ⟨Nat.not_le.2 hcfi, Nat.not_le.2 hupfi⟩
  rw [exec_rxFrame, execRxFrame, runCommand_of_fits hfits]
  simp only [if_neg (not_not.2 hlength), hheader, hvalid, Bool.not_true, Bool.false_eq_true, if_false, hscheme, hcodec,
    if_neg hrange, hroom, hoctets]

/-- The refusals of 45_mpdu_framer.md R172 have another status than `OK`, so a frame answered `OK` passed every check. -/
theorem acceptsFrame_of_exec_rxFrame {df1 : Bool} {s t : State} (hexec : exec (.rxFrame df1) s = .next t)
    (hstatus : t.status = 0) :
    ∃ h c cdc x payload, AcceptsFrame df1 s h c cdc x payload ∧ t = rxStore s h c cdc x payload := by
  suffices hchecks : ∃ h c cdc x payload, AcceptsFrame df1 s h c cdc x payload by
    obtain ⟨h, c, cdc, x, payload, hs⟩ := hchecks
    exact ⟨h, c, cdc, x, payload, hs,
      Host.Outcome.next.inj (hexec.symm.trans (exec_rxFrame_of_acceptsFrame hs))⟩
  rw [exec_rxFrame, execRxFrame] at hexec
  cases hfits : ioFits s.params s.input.length with
  | false =>
    rw [runCommand_of_not_fits hfits] at hexec
    obtain rfl := Host.Outcome.next.inj hexec
    cases eq_ok_of_raiseWith_status hstatus
  | true =>
    rw [runCommand_of_fits hfits] at hexec
    obtain rfl := Host.Outcome.next.inj hexec
    dsimp only at hstatus
    generalize hheader : headerDecode s.params.golayB df1 s.input = h at hstatus
    split at hstatus
    · cases eq_ok_of_raiseWith_status hstatus
    next hlength =>
    split at hstatus
    · cases eq_ok_of_raiseWith_status hstatus
    next hvalid =>
    split at hstatus
    · cases eq_ok_of_raiseWith_status hstatus
    next c hscheme =>
    split at hstatus
    · cases eq_ok_of_raiseWith_status hstatus
    next cdc hcodec =>
    split at hstatus
    · cases eq_ok_of_raiseWith_status hstatus
    next hrange =>
    split at hstatus
    · cases eq_ok_of_raiseWith_status hstatus
    next x hroom =>
    rw [not_or, Nat.not_le, Nat.not_le] at hrange
    have hlength := not_not.1 hlength
    exact ⟨h, c, cdc, x, _, hfits, hlength, hheader, by simpa using hvalid, rfl,
      hscheme, hcodec, hrange.1, hrange.2, hroom, drop_header_length hlength⟩

/-! ### The repeat -/

theorem openContext_of_lookup {s : State} {key : CtxKey} {x : Context} (h : mapLookup ctxCode key s.reasm = some x) :
    openContext s key = some x := by
  rw [openContext, h]

/-- A frame whose fragment was kept passes its checks again: they read `IN`, the parameters and the context of its key,
and that context is open now (45_mpdu_framer.md R172, R173). -/
theorem AcceptsFrame.repeats {df1 : Bool} {s t : State} {h : HeaderDecoded} {c : Scheme} {cdc : FrameCodec}
    {x : Context} {payload : Bytes} (hs : AcceptsFrame df1 s h c cdc x payload) (hinput : t.input = s.input)
    (hparams : t.params = s.params) (hkept : KeepsFragment s h c cdc x payload t) :
    AcceptsFrame df1 t h c cdc (storedContext s.params h c cdc x payload) payload := by
  obtain ⟨hfits, hlength, hheader, hvalid, hoctets, hscheme, hcodec, hcfi, hupfi, -, hpayload⟩ := hs
  have hopen : openContext t { upl := h.fields.upl, ec := h.fields.ec } =
      some (storedContext s.params h c cdc x payload) :=
    openContext_of_lookup (by rw [hkept.reasm, mapLookup_mapInsert_self])
  rw [← hinput] at hfits hlength hheader hoctets
  rw [← hparams] at hfits hheader hscheme hcfi hupfi
  exact ⟨hfits, hlength, hheader, hvalid, hoctets, hscheme, hcodec, hcfi, hupfi, hopen, hpayload⟩

/-- Settles O59: the repeat stores the same fragment in the context the first frame left, which leaves that context and
`REASM` as they are. -/
theorem repeatedFrameChangesNothing : Obligations.RepeatedFrameChangesNothing := by
  intro s t df1 _ hexec hstatus hkind
  obtain ⟨h, c, cdc, x, payload, hs, ht⟩ := acceptsFrame_of_exec_rxFrame hexec hstatus
  obtain ⟨hinput, hparams⟩ : t.input = s.input ∧ t.params = s.params := by
    obtain ⟨-, -, hinput, hparams, -⟩ := ht ▸ rxStore_frame s h c cdc x payload
    exact ⟨hinput, hparams⟩
  have hincomplete : storedPacket s.params c h.fields.upl (storedContext s.params h c cdc x payload).dec = none :=
    storedPacket_eq_none_of_rxStore (ht ▸ hstatus) (ht ▸ hkind)
  have hkept : KeepsFragment s h c cdc x payload t := ht ▸ rxStore_keepsFragment hincomplete
  have hcontext := storedContext_storedContext_self s.params h c cdc x payload
  have hagain : KeepsFragment t h c cdc (storedContext s.params h c cdc x payload) payload
      (rxStore t h c cdc (storedContext s.params h c cdc x payload) payload) :=
    rxStore_keepsFragment (by rwa [hparams, hcontext])
  refine ⟨_, exec_rxFrame_of_acceptsFrame (hs.repeats hinput hparams hkept), hagain.status,
    hagain.res0.trans hkept.res0.symm, hagain.res1.trans hkept.res1.symm, hagain.out.trans hkept.out.symm, ?_⟩
  rw [hagain.reasm, hparams, hcontext, hkept.reasm, mapInsert_mapInsert_self]

end Sys2Proof.Machine

/-!
PROOFS. 30_encoding.md: the command word's format (R60), the three decode checks (R63), the opcode map (R66), reserved
words (R67) and the example words (R71).

What an opcode selects is said once (`selectOpcode_spec`): a row of the opcode map, and a command whose word is `CMD` cut
down to the used fields and the opcode. So three things say the same of `CMD`, namely that no bit outside those is set:
the checks of the reserved bits and the unused fields pass, the word selects the row, and the word is the command's own.
-/

namespace Sys2Proof.Machine

/-! ### The fields of a packed word, and a word as its packed fields (30_encoding.md R60) -/

section Packed

variable (st dt : BitVec 4) (df1 : Bool) (rf : BitVec 3) (ec : BitVec 6) (op : BitVec 8)

@[simp] theorem fieldRsv_packWord : fieldRsv (packWord st dt df1 rf ec op) = 0 := by
  simp (disch := decide) only [fieldRsv, packWord, BitVec.extractLsb'_append_eq_of_le]
  exact BitVec.extractLsb'_eq_self

@[simp] theorem fieldSt_packWord : fieldSt (packWord st dt df1 rf ec op) = st := by
  simp (disch := decide) only [fieldSt, packWord, BitVec.extractLsb'_append_eq_of_le,
    BitVec.extractLsb'_append_eq_of_add_le]
  exact BitVec.extractLsb'_eq_self

@[simp] theorem fieldDt_packWord : fieldDt (packWord st dt df1 rf ec op) = dt := by
  simp (disch := decide) only [fieldDt, packWord, BitVec.extractLsb'_append_eq_of_le,
    BitVec.extractLsb'_append_eq_of_add_le]
  exact BitVec.extractLsb'_eq_self

@[simp] theorem fieldDf1_packWord : fieldDf1 (packWord st dt df1 rf ec op) = df1 := by
  simp only [fieldDf1, packWord, BitVec.getLsbD_append]
  simp

@[simp] theorem fieldRf_packWord : fieldRf (packWord st dt df1 rf ec op) = rf := by
  simp (disch := decide) only [fieldRf, packWord, BitVec.extractLsb'_append_eq_of_le,
    BitVec.extractLsb'_append_eq_of_add_le]
  exact BitVec.extractLsb'_eq_self

@[simp] theorem fieldEc_packWord : fieldEc (packWord st dt df1 rf ec op) = ec := by
  simp (disch := decide) only [fieldEc, packWord, BitVec.extractLsb'_append_eq_of_le,
    BitVec.extractLsb'_append_eq_of_add_le]
  exact BitVec.extractLsb'_eq_self

@[simp] theorem fieldOp_packWord : fieldOp (packWord st dt df1 rf ec op) = op :=
  BitVec.extractLsb'_append_eq_right

end Packed

theorem ofBool_fieldDf1 (w : Word) : BitVec.ofBool (fieldDf1 w) = w.extractLsb' 17 1 := by
  ext i hi
  obtain rfl : i = 0 := by omega
  simp [fieldDf1]

theorem packWord_fields {w : Word} (hrsv : fieldRsv w = 0) :
    packWord (fieldSt w) (fieldDt w) (fieldDf1 w) (fieldRf w) (fieldEc w) (fieldOp w) = w := by
  have hzero : 0#6 = w.extractLsb' 26 6 := hrsv.symm
  simp only [packWord, hzero, ofBool_fieldDf1, fieldSt, fieldDt, fieldRf, fieldEc, fieldOp]
  simp (disch := decide) only [BitVec.extractLsb'_append_extractLsb'_eq_extractLsb']
  exact BitVec.extractLsb'_eq_self

/-! ### A word cut down to some fields and the opcode, for each of the sets of fields that the opcodes use -/

/-- The bits of `OP`. -/
def bitsOp : Word := 0x000000FF

@[simp] theorem fieldRsv_and (w m : Word) : fieldRsv (w &&& m) = fieldRsv w &&& fieldRsv m := BitVec.extractLsb'_and
@[simp] theorem fieldSt_and (w m : Word) : fieldSt (w &&& m) = fieldSt w &&& fieldSt m := BitVec.extractLsb'_and
@[simp] theorem fieldDt_and (w m : Word) : fieldDt (w &&& m) = fieldDt w &&& fieldDt m := BitVec.extractLsb'_and
@[simp] theorem fieldRf_and (w m : Word) : fieldRf (w &&& m) = fieldRf w &&& fieldRf m := BitVec.extractLsb'_and
@[simp] theorem fieldEc_and (w m : Word) : fieldEc (w &&& m) = fieldEc w &&& fieldEc m := BitVec.extractLsb'_and
@[simp] theorem fieldOp_and (w m : Word) : fieldOp (w &&& m) = fieldOp w &&& fieldOp m := BitVec.extractLsb'_and
@[simp] theorem fieldDf1_and (w m : Word) : fieldDf1 (w &&& m) = (fieldDf1 w && fieldDf1 m) := BitVec.getLsbD_and

theorem and_packWord (w : Word) (st dt : BitVec 4) (df1 : Bool) (rf : BitVec 3) (ec : BitVec 6) (op : BitVec 8) :
    w &&& packWord st dt df1 rf ec op = packWord (fieldSt w &&& st) (fieldDt w &&& dt) (fieldDf1 w && df1)
      (fieldRf w &&& rf) (fieldEc w &&& ec) (fieldOp w &&& op) := by
  have hrsv : fieldRsv (w &&& packWord st dt df1 rf ec op) = 0 := by simp
  rw [← packWord_fields hrsv]
  simp

theorem and_bitsOp (w : Word) : w &&& bitsOp = packWord 0 0 false 0 0 (fieldOp w) := by
  rw [show bitsOp = packWord 0 0 false 0 0 (BitVec.allOnes 8) from rfl, and_packWord]
  simp [-BitVec.reduceAllOnes]

theorem and_noField (w : Word) : w &&& (0 ||| bitsOp) = packWord 0 0 false 0 0 (fieldOp w) := and_bitsOp w

theorem and_ec (w : Word) : w &&& (bitsEc ||| bitsOp) = packWord 0 0 false 0 (fieldEc w) (fieldOp w) := by
  rw [show bitsEc ||| bitsOp = packWord 0 0 false 0 (BitVec.allOnes 6) (BitVec.allOnes 8) from rfl, and_packWord]
  simp [-BitVec.reduceAllOnes]

theorem and_st_dt (w : Word) :
    w &&& (bitsSt ||| bitsDt ||| bitsOp) = packWord (fieldSt w) (fieldDt w) false 0 0 (fieldOp w) := by
  rw [show bitsSt ||| bitsDt ||| bitsOp =
    packWord (BitVec.allOnes 4) (BitVec.allOnes 4) false 0 0 (BitVec.allOnes 8) from rfl, and_packWord]
  simp [-BitVec.reduceAllOnes]

theorem and_df1 (w : Word) : w &&& (bitsDf1 ||| bitsOp) = packWord 0 0 (fieldDf1 w) 0 0 (fieldOp w) := by
  rw [show bitsDf1 ||| bitsOp = packWord 0 0 true 0 0 (BitVec.allOnes 8) from rfl, and_packWord]
  simp [-BitVec.reduceAllOnes]

theorem and_ec_rf_df1 (w : Word) : w &&& (bitsEc ||| bitsRf ||| bitsDf1 ||| bitsOp) =
    packWord 0 0 (fieldDf1 w) (fieldRf w) (fieldEc w) (fieldOp w) := by
  rw [show bitsEc ||| bitsRf ||| bitsDf1 ||| bitsOp =
    packWord 0 0 true (BitVec.allOnes 3) (BitVec.allOnes 6) (BitVec.allOnes 8) from rfl, and_packWord]
  simp [-BitVec.reduceAllOnes]

/-- `RSV` is every bit that is neither of an operand field nor of the opcode. -/
theorem fieldRsv_eq_zero_iff (w : Word) : fieldRsv w = 0 ↔ w &&& (bitsOperands ||| bitsOp) = w := by
  constructor
  · intro hrsv
    rw [show bitsOperands ||| bitsOp = packWord (BitVec.allOnes 4) (BitVec.allOnes 4) true (BitVec.allOnes 3)
      (BitVec.allOnes 6) (BitVec.allOnes 8) from rfl, and_packWord]
    simpa [-BitVec.reduceAllOnes] using packWord_fields hrsv
  · intro h
    rw [← h, fieldRsv_and]
    exact BitVec.and_zero

/-! ### The command and the used fields that an opcode selects -/

/-- The row of the opcode map that a command and its used fields name: its opcode is that of the word, and its mask is
every bit but those of the used fields. -/
def rowOf (w : Word) (i : Instr) (used : Word) : OpcodeRow := ⟨mnemonic i, w &&& bitsOp, ~~~used⟩

theorem fieldOp_of_toNat {w : Word} {n : Nat} (h : (fieldOp w).toNat = n) : fieldOp w = BitVec.ofNat 8 n := by
  rw [← h, BitVec.ofNat_toNat, BitVec.setWidth_eq]

/-- An opcode names a row of the opcode map, and the command's word is `CMD` cut down to the used fields and the
opcode. The cases by the fields that the opcode uses: none, `EC`, `ST` and `DT`, `DF1`, and `EC`, `RF` and `DF1`. -/
theorem selectOpcode_spec {w : Word} {i : Instr} {used : Word} (h : selectOpcode w = some (i, used)) :
    rowOf w i used ∈ opcodeTable ∧ encode i = w &&& (used ||| bitsOp) := by
  unfold selectOpcode at h
  rw [rowOf, and_bitsOp]
  split at h
  case h_1 hop | h_2 hop | h_3 hop | h_4 hop | h_6 hop | h_7 hop | h_9 hop | h_20 hop =>
    cases h
    rw [and_noField, fieldOp_of_toNat hop]
    exact ⟨by simp only [mnemonic]; decide, rfl⟩
  case h_5 hop | h_10 hop | h_11 hop | h_12 hop | h_13 hop | h_16 hop | h_19 hop =>
    cases h
    rw [and_ec, fieldOp_of_toNat hop]
    exact ⟨by simp only [mnemonic]; decide, rfl⟩
  case h_8 hop =>
    cases h
    rw [and_st_dt, fieldOp_of_toNat hop]
    exact ⟨by simp only [mnemonic]; decide, rfl⟩
  case h_15 hop | h_18 hop =>
    cases h
    rw [and_df1, fieldOp_of_toNat hop]
    exact ⟨by simp only [mnemonic]; decide, rfl⟩
  case h_14 hop | h_17 hop =>
    cases h
    rw [and_ec_rf_df1, fieldOp_of_toNat hop]
    exact ⟨by simp only [mnemonic]; decide, rfl⟩
  case h_21 => cases h

/-- Every term of `Instr` is selected by its own word: its opcode, and its fields where the decoder reads them. -/
theorem exists_selectOpcode_encode (i : Instr) : ∃ used, selectOpcode (encode i) = some (i, used) := by
  cases i <;> simp [encode, selectOpcode]

/-! ### The rows of the opcode map -/

/-- The opcodes of the twenty rows (30_encoding.md R66). -/
theorem opcodes_eq : (opcodeTable.map fun r => (fieldOp r.bits).toNat) =
    [0x01, 0x02, 0x03, 0x04, 0x10, 0x11, 0x12, 0x20, 0x30, 0x31, 0x32, 0x33, 0x34, 0x40, 0x41, 0x50, 0x51, 0x52,
      0x53, 0x54] := by decide

theorem selectOpcode_eq_none_iff (w : Word) :
    selectOpcode w = none ↔ (fieldOp w).toNat ∉ opcodeTable.map fun r => (fieldOp r.bits).toNat := by
  rw [opcodes_eq]
  unfold selectOpcode
  split
  case h_21 => simp_all
  all_goals simp [*]

theorem selectOpcode_ne_none_iff (w : Word) :
    selectOpcode w ≠ none ↔ ∃ r ∈ opcodeTable, fieldOp r.bits = fieldOp w := by
  simp [selectOpcode_eq_none_iff, BitVec.toNat_inj]

/-- A row's mask has the whole opcode, the reserved bits, and some operand bits. -/
theorem mask_of_mem {r : OpcodeRow} (hr : r ∈ opcodeTable) : r.mask &&& bitsOp = bitsOp ∧
    ~~~(bitsOperands ||| bitsOp) ||| (bitsOperands &&& r.mask) = r.mask &&& ~~~bitsOp := by
  revert r
  decide

theorem fieldOp_of_selects {r : OpcodeRow} (hr : r ∈ opcodeTable) {w : Word} (h : w &&& r.mask = r.bits) :
    fieldOp r.bits = fieldOp w := by
  have hmask : ∀ r ∈ opcodeTable, fieldOp r.mask = BitVec.allOnes 8 := by decide
  rw [← h, fieldOp_and, hmask r hr, BitVec.and_allOnes]

theorem row_eq_of_fieldOp_eq {r r' : OpcodeRow} (hr : r ∈ opcodeTable) (hr' : r' ∈ opcodeTable)
    (h : fieldOp r.bits = fieldOp r'.bits) : r = r' := by
  have hnodup : (opcodeTable.map fun r => fieldOp r.bits).Nodup := by decide
  exact List.inj_on_of_nodup_map hnodup hr hr' h

/-! ### Three ways to say that a word has no bit set outside the used fields and the opcode -/

theorem and_not_eq_zero_iff {n : Nat} (x m : BitVec n) : x &&& ~~~m = 0 ↔ x &&& m = x := by
  have hsplit : x &&& m ||| x &&& ~~~m = x := by
    rw [← BitVec.and_or_distrib_left, BitVec.or_not_self, BitVec.and_allOnes]
  constructor
  · intro h
    simpa [h] using hsplit
  · intro h
    rw [← h, BitVec.and_assoc, BitVec.and_not_self]
    exact BitVec.and_zero

section Selected

variable {w : Word} {i : Instr} {used : Word}

theorem encode_eq_iff (h : selectOpcode w = some (i, used)) : encode i = w ↔ w &&& (~~~used &&& ~~~bitsOp) = 0 := by
  rw [(selectOpcode_spec h).2, ← BitVec.not_or, and_not_eq_zero_iff]

/-- The first and the third check of 30_encoding.md R63 pass just for the command's own word. -/
theorem checks_iff_encode_eq (h : selectOpcode w = some (i, used)) :
    fieldRsv w = 0 ∧ w &&& bitsOperands &&& ~~~used = 0 ↔ encode i = w := by
  have hmask : ~~~(bitsOperands ||| bitsOp) ||| (bitsOperands &&& ~~~used) = ~~~used &&& ~~~bitsOp :=
    (mask_of_mem (selectOpcode_spec h).1).2
  rw [encode_eq_iff h, ← hmask, BitVec.and_or_distrib_left, ← BitVec.and_assoc, fieldRsv_eq_zero_iff,
    ← and_not_eq_zero_iff]
  exact BitVec.or_eq_zero_iff.symm

/-- A word selects the row that its opcode names just if it is the command's own word. -/
theorem selects_rowOf_iff (h : selectOpcode w = some (i, used)) :
    w &&& (rowOf w i used).mask = (rowOf w i used).bits ↔ encode i = w := by
  have hmask : ~~~used &&& bitsOp = bitsOp := (mask_of_mem (selectOpcode_spec h).1).1
  rw [encode_eq_iff h, ← BitVec.and_assoc, and_not_eq_zero_iff, BitVec.and_assoc, hmask, eq_comm]
  rfl

end Selected

theorem fieldOp_rowOf_bits (w : Word) (i : Instr) (used : Word) : fieldOp (rowOf w i used).bits = fieldOp w := by
  rw [rowOf, and_bitsOp, fieldOp_packWord]

/-! ### What the decoder can answer -/

/-- The three checks of 30_encoding.md R63 in their order, the third said of the command's own word. -/
theorem decode_cases (w : Word) :
    (fieldRsv w ≠ 0 ∧ decode w = .rejected .reservedBits) ∨
    (fieldRsv w = 0 ∧ selectOpcode w = none ∧ decode w = .rejected .unassignedOpcode) ∨
    ∃ i used, fieldRsv w = 0 ∧ selectOpcode w = some (i, used) ∧
      ((encode i ≠ w ∧ decode w = .rejected .unusedField) ∨ (encode i = w ∧ decode w = .command i)) := by
  unfold decode
  split
  next hrsv => exact .inl ⟨hrsv, rfl⟩
  next hrsv =>
    rw [not_not] at hrsv
    split
    next hnone => exact .inr (.inl ⟨hrsv, hnone, rfl⟩)
    next i used hsome =>
      refine .inr (.inr ⟨i, used, hrsv, hsome, ?_⟩)
      have hchecks := checks_iff_encode_eq hsome
      split
      next hused => exact .inl ⟨fun hencode => hused (hchecks.2 hencode).2, rfl⟩
      next hused => exact .inr ⟨hchecks.1 ⟨hrsv, not_not.1 hused⟩, rfl⟩

theorem decode_eq_reservedBits_iff (w : Word) : decode w = .rejected .reservedBits ↔ fieldRsv w ≠ 0 := by
  rcases decode_cases w with ⟨hrsv, hd⟩ | ⟨hrsv, -, hd⟩ | ⟨i, used, hrsv, -, ⟨-, hd⟩ | ⟨-, hd⟩⟩ <;> simp_all

theorem decode_eq_unassignedOpcode_iff (w : Word) :
    decode w = .rejected .unassignedOpcode ↔ fieldRsv w = 0 ∧ selectOpcode w = none := by
  rcases decode_cases w with ⟨hrsv, hd⟩ | ⟨hrsv, hs, hd⟩ | ⟨i, used, hrsv, hs, ⟨-, hd⟩ | ⟨-, hd⟩⟩ <;> simp_all

/-- With the first two checks passed, the third rejects what is no command. -/
theorem decode_eq_unusedField_iff (w : Word) : decode w = .rejected .unusedField ↔
    fieldRsv w = 0 ∧ selectOpcode w ≠ none ∧ ¬ ∃ i, decode w = .command i := by
  rcases decode_cases w with ⟨hrsv, hd⟩ | ⟨hrsv, hs, hd⟩ | ⟨i, used, hrsv, hs, ⟨-, hd⟩ | ⟨-, hd⟩⟩ <;> simp_all

/-- A word decodes to a command just if it is that command's own word. -/
theorem decode_eq_command_iff {w : Word} {i : Instr} : decode w = .command i ↔ encode i = w := by
  constructor
  · intro h
    rcases decode_cases w with ⟨-, hd⟩ | ⟨-, -, hd⟩ | ⟨j, used, -, -, ⟨-, hd⟩ | ⟨hencode, hd⟩⟩
    case inr.inr.inr =>
      obtain rfl : j = i := by simpa [hd] using h
      exact hencode
    all_goals simp [hd] at h
  · rintro rfl
    obtain ⟨used, hs⟩ := exists_selectOpcode_encode i
    obtain ⟨hrsv, hused⟩ := (checks_iff_encode_eq hs).2 rfl
    rw [decode, if_neg (not_not.2 hrsv), hs]
    exact if_neg (not_not.2 hused)

theorem selectOpcode_of_decode {w : Word} {i : Instr} (h : decode w = .command i) :
    ∃ used, selectOpcode w = some (i, used) :=
  decode_eq_command_iff.1 h ▸ exists_selectOpcode_encode i

/-! ### Commands and rows -/

theorem eq_rowOf_of_fieldOp_eq {w : Word} {i : Instr} {used : Word} (hs : selectOpcode w = some (i, used))
    {r : OpcodeRow} (hr : r ∈ opcodeTable) (h : fieldOp r.bits = fieldOp w) : r = rowOf w i used :=
  row_eq_of_fieldOp_eq hr (selectOpcode_spec hs).1 (h.trans (fieldOp_rowOf_bits w i used).symm)

/-- 30_encoding.md R66: a command's word selects the row of its mnemonic, which is the one row of its opcode. -/
theorem row_of_decode {w : Word} {i : Instr} (h : decode w = .command i) :
    ∃ r ∈ opcodeTable, r.mnemonic = mnemonic i ∧ w &&& r.mask = r.bits ∧
      ∀ r' ∈ opcodeTable, fieldOp r'.bits = fieldOp w → r' = r := by
  obtain ⟨used, hs⟩ := selectOpcode_of_decode h
  exact ⟨rowOf w i used, (selectOpcode_spec hs).1, rfl, (selects_rowOf_iff hs).2 (decode_eq_command_iff.1 h),
    fun _ => eq_rowOf_of_fieldOp_eq hs⟩

theorem exists_command_iff_selects (w : Word) :
    (∃ i, decode w = .command i) ↔ ∃ r ∈ opcodeTable, w &&& r.mask = r.bits := by
  constructor
  · rintro ⟨i, h⟩
    obtain ⟨r, hr, -, hselects, -⟩ := row_of_decode h
    exact ⟨r, hr, hselects⟩
  · rintro ⟨r, hr, hselects⟩
    have hop := fieldOp_of_selects hr hselects
    obtain ⟨⟨i, used⟩, hs⟩ := Option.ne_none_iff_exists'.1 ((selectOpcode_ne_none_iff w).2 ⟨r, hr, hop⟩)
    obtain rfl := eq_rowOf_of_fieldOp_eq hs hr hop
    exact ⟨i, decode_eq_command_iff.2 ((selects_rowOf_iff hs).1 hselects)⟩

/-! ### Reserved words (30_encoding.md R67) -/

/-- The ranges of reserved opcodes, each with its least and its greatest. -/
def reservedOpcodes : List (Nat × Nat) :=
  [(0x00, 0x00), (0x05, 0x0F), (0x13, 0x1F), (0x21, 0x2F), (0x35, 0x3F), (0x42, 0x4F), (0x55, 0xFF)]

theorem selectOpcode_of_reserved {w : Word}
    (h : ∃ r ∈ reservedOpcodes, r.1 ≤ (fieldOp w).toNat ∧ (fieldOp w).toNat ≤ r.2) : selectOpcode w = none := by
  have hdisjoint : ∀ n ∈ opcodeTable.map (fun r => (fieldOp r.bits).toNat),
    ¬ ∃ r ∈ reservedOpcodes, r.1 ≤ n ∧ n ≤ r.2 := by decide
  exact (selectOpcode_eq_none_iff w).2 fun hn => hdisjoint _ hn h

/-! ### The obligations -/

/-- Settles O1: a command's own word selects that command (`exists_selectOpcode_encode`) and passes the checks. -/
theorem decodeOfEncodeIsTheCommand : Obligations.DecodeOfEncodeIsTheCommand := by
  intro i
  exact decode_eq_command_iff.2 rfl

/-- Settles O2: a word that passes the checks has no bit set outside the used fields and the opcode
(`checks_iff_encode_eq`), and those make up the command's word (`selectOpcode_spec`). -/
theorem encodeOfDecodeIsTheWord : Obligations.EncodeOfDecodeIsTheWord := by
  intro w i h
  exact decode_eq_command_iff.1 h

/-- Settles O3: the row is the one the opcode names; no other row has that opcode. -/
theorem decoderAgreesWithOpcodeMap : Obligations.DecoderAgreesWithOpcodeMap := by
  refine fun w => ⟨fun i h => ?_, (exists_command_iff_selects w).2⟩
  obtain ⟨r, hr, hmnemonic, hselects, honly⟩ := row_of_decode h
  refine ⟨r, hr, hmnemonic, fun r' hr' => ⟨fun h' => honly r' hr' (fieldOp_of_selects hr' h'), ?_⟩⟩
  rintro rfl
  exact hselects

/-- Settles O4: each rejection by its own check, where the third rejects a word of an assigned opcode that selects no
row. -/
theorem rejectionsFollowTheThreeChecks : Obligations.RejectionsFollowTheThreeChecks := by
  intro w
  refine ⟨decode_eq_reservedBits_iff w, ?_, ?_⟩
  · rw [decode_eq_unassignedOpcode_iff, selectOpcode_eq_none_iff, opcodes_eq]
    rfl
  · rw [decode_eq_unusedField_iff, selectOpcode_ne_none_iff, exists_command_iff_selects]
    rfl

/-- Settles O7: a reserved word decodes to no command, since a command's word has zero reserved bits and an assigned
opcode and selects that opcode's row. -/
theorem reservedWordCompletesWithBadFormat : Obligations.ReservedWordCompletesWithBadFormat := by
  intro s hp hreserved
  cases hd : decode s.cmd with
  | rejected r => exact step_of_rejected hp hd
  | command i =>
    exfalso
    rcases hreserved with hbits | hopcode | ⟨r', hr', hop, hfields⟩
    · simpa [hd] using (decode_eq_reservedBits_iff s.cmd).2 hbits
    · obtain ⟨used, hs⟩ := selectOpcode_of_decode hd
      simpa [hs] using selectOpcode_of_reserved hopcode
    · obtain ⟨r, hr, -, hselects, honly⟩ := row_of_decode hd
      exact hfields (honly r' hr' hop ▸ hselects)

/-- Settles O5: each of the thirteen words is its command's own word (30_encoding.md R60). -/
theorem encodingExamplesDecode : Obligations.EncodingExamplesDecode := by
  refine ⟨?_, ?_, ?_, ?_, ?_, ?_, ?_, ?_, ?_, ?_, ?_, ?_, ?_⟩ <;> exact decode_eq_command_iff.2 rfl

end Sys2Proof.Machine

/-!
PROOFS. 40_scheme_table.md: the codes of the schemes (R80, R81), the rows and their geometry (R82 to R87), and the
commands that look a code up (R88 to R93).

A lookup answers exactly the pairs of a scheme and a code that stand at one place of the listing order and of `EC_CODE`
(`schemeOf_eq_some_iff`), because no code stands twice in a legal `EC_CODE`; what the table says of codes follows. The
geometry is said once per kind of row: a convolutional row and NO_FEC by the formula in `CMAX`, a block row by its value
at the default parameters, which is the value at any.
-/

namespace Sys2Proof.Machine

/-! ### Codes and schemes (R80, R81) -/

theorem cmax_range {p : Params} (hp : legalParams p = true) : 28 ≤ p.cmax ∧ p.cmax ≤ 121856 := by
  simp only [legalParams, cmaxOk, Bool.and_eq_true, decide_eq_true_eq] at hp
  obtain ⟨⟨⟨⟨hcmax, -⟩, -⟩, -⟩, -⟩ := hp
  exact hcmax

theorem ecCode_length_nodup {p : Params} (hp : legalParams p = true) : p.ecCode.length = 49 ∧ p.ecCode.Nodup := by
  simp only [legalParams, Bool.and_eq_true] at hp
  obtain ⟨⟨⟨-, hec⟩, -⟩, -⟩ := hp
  exact (ecCodeOk_iff _).1 hec

@[simp] theorem allSchemes_length : allSchemes.length = 49 := rfl

theorem allSchemes_nodup : allSchemes.Nodup := by decide +kernel

theorem mem_allSchemes (c : Scheme) : c ∈ allSchemes := by
  cases c with
  | conv r => cases r <;> decide
  | reedSolomon c i => cases c <;> cases i <;> decide
  | turbo k r => cases k <;> cases r <;> decide
  | orangeBook n => cases n <;> decide
  | qcLdpc n r => cases n <;> cases r <;> decide
  | noFec => decide

theorem exists_index_of_schemeOf {p : Params} {ec : BitVec 6} {c : Scheme} (h : schemeOf p ec = some c) :
    ∃ i : Nat, allSchemes[i]? = some c ∧ p.ecCode[i]? = some ec := by
  obtain ⟨e, hfind, rfl⟩ := Option.map_eq_some_iff.1 h
  have hec : e.2 = ec := by simpa using List.find?_some hfind
  obtain ⟨i, hi⟩ := List.mem_iff_getElem?.1 (List.mem_of_find?_eq_some hfind)
  obtain ⟨hscheme, hcode⟩ := List.getElem?_zip_eq_some.1 hi
  exact ⟨i, hscheme, hec ▸ hcode⟩

theorem isSome_schemeOf {p : Params} {i : Nat} {ec : BitVec 6} {c : Scheme} (hc : allSchemes[i]? = some c)
    (hec : p.ecCode[i]? = some ec) : (schemeOf p ec).isSome = true := by
  have hzip : (c, ec) ∈ allSchemes.zip p.ecCode :=
    List.mem_iff_getElem?.2 ⟨i, List.getElem?_zip_eq_some.2 ⟨hc, hec⟩⟩
  rw [schemeOf, Option.isSome_map, List.find?_isSome]
  exact ⟨_, hzip, by simp⟩

/-- A lookup answers the scheme at the code's place in `EC_CODE`: no code has two places. -/
theorem schemeOf_eq_some_iff {p : Params} (hp : p.ecCode.Nodup) {ec : BitVec 6} {c : Scheme} :
    schemeOf p ec = some c ↔ ∃ i : Nat, allSchemes[i]? = some c ∧ p.ecCode[i]? = some ec := by
  refine ⟨exists_index_of_schemeOf, fun ⟨i, hc, hec⟩ => ?_⟩
  obtain ⟨c', hc'⟩ := Option.isSome_iff_exists.1 (isSome_schemeOf hc hec)
  obtain ⟨j, hj, hecj⟩ := exists_index_of_schemeOf hc'
  obtain ⟨hi, -⟩ := List.getElem?_eq_some_iff.1 hec
  have hij : i = j := (List.getElem?_inj hi hp).1 (hec.trans hecj.symm)
  rw [hc', ← hj, ← hij, hc]

theorem schemeOf_of_getElem? {p : Params} (hp : legalParams p = true) {i : Nat} {ec : BitVec 6}
    (hec : p.ecCode[i]? = some ec) : schemeOf p ec = allSchemes[i]? := by
  obtain ⟨hlength, hnodup⟩ := ecCode_length_nodup hp
  obtain ⟨hi, -⟩ := List.getElem?_eq_some_iff.1 hec
  have hc : allSchemes[i]? = some allSchemes[i] := List.getElem?_eq_getElem _
  rw [hc, schemeOf_eq_some_iff hnodup]
  exact ⟨i, hc, hec⟩

theorem exists_code {p : Params} (hp : legalParams p = true) (c : Scheme) : ∃ ec, schemeOf p ec = some c := by
  obtain ⟨hlength, -⟩ := ecCode_length_nodup hp
  obtain ⟨i, hc⟩ := List.mem_iff_getElem?.1 (mem_allSchemes c)
  obtain ⟨hi, -⟩ := List.getElem?_eq_some_iff.1 hc
  rw [allSchemes_length, ← hlength] at hi
  exact ⟨p.ecCode[i], (schemeOf_of_getElem? hp (List.getElem?_eq_getElem hi)).trans hc⟩

theorem schemeOf_injective {p : Params} {c : Scheme} {ec ec' : BitVec 6} (h : schemeOf p ec = some c)
    (h' : schemeOf p ec' = some c) : ec = ec' := by
  obtain ⟨i, hi, hec⟩ := exists_index_of_schemeOf h
  obtain ⟨j, hj, hec'⟩ := exists_index_of_schemeOf h'
  obtain ⟨hlt, -⟩ := List.getElem?_eq_some_iff.1 hi
  have hij : i = j := (List.getElem?_inj hlt allSchemes_nodup).1 (hi.trans hj.symm)
  rw [← hij, hec] at hec'
  exact Option.some.inj hec'

theorem schemeOf_of_not_mem {p : Params} {ec : BitVec 6} (h : ec ∉ p.ecCode) : schemeOf p ec = none := by
  rw [Option.eq_none_iff_forall_ne_some]
  intro c hc
  obtain ⟨i, -, hec⟩ := exists_index_of_schemeOf hc
  exact h (List.mem_of_getElem? hec)

/-- Settles O40: a lookup pairs the places of the listing order and of `EC_CODE`, and neither repeats an entry. -/
theorem everySchemeHasExactlyOneCode : Obligations.EverySchemeHasExactlyOneCode := fun _ hp =>
  ⟨exists_code hp, fun _ _ _ => schemeOf_injective, fun _ _ => schemeOf_of_getElem? hp, fun _ => schemeOf_of_not_mem⟩

/-! ### Geometry (R83 to R87) -/

theorem convMessageBits_eq (p : Params) (r : ConvRate) :
    convMessageBits p r = (p.cmax * (convFraction r).1 / (convFraction r).2 - 6) / 8 * 8 := by
  simp only [convMessageBits, constraintLength]
  omega

theorem noFecBits_eq (p : Params) : noFecBits p = 8 * (min p.cmax 952 / 8) := rfl

theorem numFrags_eq (p : Params) (c : Scheme) (payload : Nat) :
    numFrags p c payload = if c = .noFec then 1 else ceilDiv (codewordOctets p c) payload := by
  cases c <;> rfl

/-- The geometry of a block row does not depend on `CMAX`. -/
theorem blockRow_bits_eq_default (p : Params) {c : Scheme} (hconv : ∀ r, c ≠ .conv r) (hnoFec : c ≠ .noFec) :
    codewordBits p c = codewordBits defaultParams c ∧ messageBits p c = messageBits defaultParams c := by
  cases c with
  | conv r => exact absurd rfl (hconv r)
  | noFec => exact absurd rfl hnoFec
  | reedSolomon | turbo | orangeBook | qcLdpc => exact ⟨rfl, rfl⟩

theorem default_message_fits (c : Scheme) :
    0 < messageBits defaultParams c ∧ messageBits defaultParams c ≤ codewordBits defaultParams c := by
  have hall : ∀ c ∈ allSchemes,
      0 < messageBits defaultParams c ∧ messageBits defaultParams c ≤ codewordBits defaultParams c := by
    decide +kernel
  exact hall c (mem_allSchemes c)

theorem convMessageBits_pos_le {p : Params} (hp : legalParams p = true) (r : ConvRate) :
    0 < convMessageBits p r ∧ convMessageBits p r ≤ p.cmax := by
  have hcmax := cmax_range hp
  rw [convMessageBits_eq]
  cases r <;> simp only [convFraction] <;> omega

/-- Every message is nonempty and fits its codeword. -/
theorem message_fits {p : Params} (hp : legalParams p = true) (c : Scheme) :
    0 < messageBits p c ∧ messageBits p c ≤ codewordBits p c := by
  cases c with
  | conv r => exact convMessageBits_pos_le hp r
  | noFec =>
    have hcmax := cmax_range hp
    simp only [messageBits, codewordBits, noFecBits_eq]
    omega
  | reedSolomon code i => exact default_message_fits (.reedSolomon code i)
  | turbo k r => exact default_message_fits (.turbo k r)
  | orangeBook n => exact default_message_fits (.orangeBook n)
  | qcLdpc n r => exact default_message_fits (.qcLdpc n r)

theorem codewordOctets_eq (p : Params) (c : Scheme) : codewordOctets p c = (codewordBits p c + 7) / 8 := rfl

theorem codewordOctets_noFec_le (p : Params) : codewordOctets p .noFec ≤ 119 := by
  rw [codewordOctets_eq, codewordBits, noFecBits_eq]
  omega

theorem fragsPerCodeword_eq (p : Params) (c : Scheme) :
    fragsPerCodeword p c = if c = .noFec then 1 else ceilDiv (codewordOctets p c) 119 :=
  numFrags_eq p c mtu

theorem codewordOctets_le_frags (p : Params) (c : Scheme) : codewordOctets p c ≤ fragsPerCodeword p c * 119 := by
  rw [fragsPerCodeword_eq]
  split
  next hc => rw [hc, Nat.one_mul]; exact codewordOctets_noFec_le p
  next => rw [Nat.mul_comm]; exact (ceilDiv_le_iff (by decide)).1 le_rfl

/-- A codeword holds a message, so it has an octet, and takes a fragment. -/
theorem fragsPerCodeword_pos {p : Params} (hp : legalParams p = true) (c : Scheme) : 0 < fragsPerCodeword p c := by
  have hmessage := message_fits hp c
  have hfrags := codewordOctets_le_frags p c
  rw [codewordOctets_eq] at hfrags
  omega

theorem fragsPerCodeword_conv_le {p : Params} (hp : legalParams p = true) (r : ConvRate) :
    fragsPerCodeword p (.conv r) ≤ 128 := by
  obtain ⟨-, hcmax⟩ := cmax_range hp
  rw [fragsPerCodeword_eq, if_neg nofun, ceilDiv_le_iff (by decide), codewordOctets_eq, codewordBits]
  omega

/-- The R=1/2 message is whole octets, and with the six tail bits it is no longer than half a codeword (R168). -/
theorem messageBits_r12 {p : Params} (hp : legalParams p = true) :
    messageBits p (.conv .r12) % 8 = 0 ∧ messageBits p (.conv .r12) + 6 ≤ codewordBits p (.conv .r12) / 2 := by
  have hcmax := cmax_range hp
  simp only [messageBits, codewordBits, convMessageBits_eq, convFraction]
  omega

/-- Settles O45, row by row from the formulas, with `CMAX` in its range. -/
theorem messagesFitTheirCodewords : Obligations.MessagesFitTheirCodewords := by
  intro p hp
  obtain ⟨hwhole, htail⟩ := messageBits_r12 hp
  refine ⟨fun _ => rfl, ?_, convMessageBits_eq p .r23, convMessageBits_eq p .r34, convMessageBits_eq p .r56,
    convMessageBits_eq p .r78, noFecBits_eq p, fun _ => blockRow_bits_eq_default p,
    codewordOctets_eq p, fun c => ?_, hwhole, htail, fragsPerCodeword_conv_le hp .r12, Nat.mul_mod_right 8 _, rfl,
    codewordOctets_noFec_le p⟩
  · rw [messageBits, convMessageBits_eq, convFraction, Nat.mul_one]
  · obtain ⟨hpos, hle⟩ := message_fits hp c
    exact ⟨hpos, hle, fragsPerCodeword_pos hp c, codewordOctets_le_frags p c⟩

/-! ### The rows at the default parameters (R82, R83) -/

/-- By default code `i` is row `i`, and codes 49 to 63 are no row's. -/
theorem schemeOf_default_codes :
    ((List.range 64).map fun code => schemeOf defaultParams (BitVec.ofNat 6 code)) =
      allSchemes.map some ++ List.replicate 15 none := by
  decide +kernel

theorem map_schemeOf_default_codes {α : Type} (f : Scheme → α) :
    ((List.range 64).map fun code => (schemeOf defaultParams (BitVec.ofNat 6 code)).map f) =
      (allSchemes.map f).map some ++ List.replicate 15 none := by
  simpa [Function.comp_def] using congrArg (List.map (Option.map f)) schemeOf_default_codes

/-- Settles O39: the codes put the rows in listing order, and the rows are computed in that order. -/
theorem schemeTableRows : Obligations.SchemeTableRows := by
  unfold Obligations.SchemeTableRows
  rw [map_schemeOf_default_codes]
  decide +kernel

/-! ### The commands that look a code up (R88 to R93) -/

section Commands

variable {s : State} {ec : BitVec 6} {c : Scheme}

theorem exec_schemeValid_of_code (hfits : ioFits s.params s.input.length = true) (hec : s.opa.toNat = ec.toNat) :
    exec .schemeValid s = .next (s.complete (if (schemeOf s.params ec).isSome then 1 else 0) 0 []) := by
  have hcode : opaSchemeCode s = ec.toNat := hec
  have hlt : ¬ 64 ≤ ec.toNat := Nat.not_le.2 ec.isLt
  simp only [exec, execSchemeValid, runCommand_of_fits hfits, hcode, hlt, if_false, reply_nil, BitVec.ofNat_toNat,
    BitVec.setWidth_eq]

theorem exec_schemeValid_of_le (hfits : ioFits s.params s.input.length = true) (hopa : 64 ≤ s.opa.toNat) :
    exec .schemeValid s = .next (s.raise .invalidScheme) := by
  simp only [exec, execSchemeValid, runCommand_of_fits hfits, opaSchemeCode, hopa, if_true]

theorem exec_schemeNumFrags (hfits : ioFits s.params s.input.length = true) (hc : schemeOf s.params ec = some c) :
    exec (.schemeNumFrags ec) s = .next (if s.opa.toNat = 0 then s.raise .badFormat
      else s.complete (BitVec.ofNat 32 (numFrags s.params c s.opa.toNat)) 0 []) := by
  simp only [exec, execSchemeNumFrags, runCommand_of_fits hfits, hc, reply_nil, opaPayload]

end Commands

/-- Settles O42: a code of six bits is looked up as it is, any other is refused. -/
theorem schemeValidCompletes : Obligations.SchemeValidCompletes := by
  intro s hfits
  refine ⟨fun ec hec ⟨c, hc⟩ => ?assigned, fun ec hec hc => ?unassigned, exec_schemeValid_of_le hfits⟩
  all_goals
    rw [exec_schemeValid_of_code hfits hec, hc]
    rfl

/-- Settles O43: with the row found, each query replies its value. -/
theorem schemeQueriesComplete : Obligations.SchemeQueriesComplete := by
  intro s ec c hfits hc
  refine ⟨?_, ?_, ?_⟩ <;>
  · simp only [exec, execSchemeRate, execSchemeCwBits, execSchemeMsgBits, runCommand_of_fits hfits, hc, reply_nil]
    rfl

/-- Settles O44, by `numFrags_eq` at a payload that is not 0. -/
theorem schemeNumFragsCompletes : Obligations.SchemeNumFragsCompletes := by
  intro s ec c hfits hc
  rw [exec_schemeNumFrags hfits hc]
  refine ⟨fun hopa => ?_, fun hopa => ?_⟩
  · have hpayload : s.opa.toNat ≠ 0 := fun h => hopa (BitVec.eq_of_toNat_eq h)
    rw [if_neg hpayload, numFrags_eq, apply_ite (BitVec.ofNat 32)]
    rfl
  · rw [if_pos (by rw [hopa]; rfl)]
    rfl

/-- Settles O41: with no row found, each command takes its refusing branch. -/
theorem unassignedSchemeIsAnError : Obligations.UnassignedSchemeIsAnError := by
  intro s ec hfits hnone
  refine ⟨?rate, ?init, fun i hi => ?queries, fun rf df1 => ?packet⟩
  case queries =>
    simp only [List.mem_cons, List.not_mem_nil, or_false] at hi
    rcases hi with rfl | rfl | rfl | rfl <;>
    · simp only [exec, execSchemeCwBits, execSchemeMsgBits, execSchemeNumFrags, execFrameCount,
        runCommand_of_fits hfits, hnone]
      rfl
  all_goals
    simp only [exec, execSchemeRate, execConvInit, execTxPacket, runCommand_of_fits hfits, hnone]
    rfl

end Sys2Proof.Machine

/-!
PROOFS. 41_ppdu.md: the forms of a bit sequence (R100, R101), PPDU_REPACK (R102), and that repacking loses nothing
(R103).

Two equations carry the file, both for every index, in range or not: `getLsbD_packForm` says which bit of the sequence
a bit of the form is, and `getD_unpackForm` which bit of the octets a bit read back is. Together they say that the bits
read back from a form are those packed (`ppduBits_packForm`). A form passes the checks of R102 (`packForm_valid`), so
what one repack answers the next accepts.
-/

namespace Sys2Proof.Machine

/-! ### Tags -/

theorem tagSupported_iff (t : Nat) : tagSupported t = true ↔ t ∈ [1, 2, 4, 8] := by
  simp [tagSupported, or_assoc]

theorem tag_pos_le {t : Nat} (ht : t ∈ [1, 2, 4, 8]) : 0 < t ∧ t ≤ 8 := by
  simp only [List.mem_cons, List.not_mem_nil, or_false] at ht
  omega

/-! ### The bits of one octet -/

theorem bitsValue_concat (s : Bits) (b : Bool) : bitsValue (s ++ [b]) = Nat.bit b (bitsValue s) := by
  rw [Nat.bit_val, bitsValue, List.foldl_append]
  rfl

/-- The last bit of the sequence is bit 0 of its value (00_scope.md R12). -/
theorem testBit_bitsValue (s : Bits) (i : Nat) : (bitsValue s).testBit i = s.reverse.getD i false := by
  induction s using List.reverseRecOn generalizing i with
  | nil => exact Nat.zero_testBit i
  | append_singleton s b ih =>
    rw [bitsValue_concat, List.reverse_append, List.reverse_singleton, List.singleton_append]
    cases i with
    | zero => exact Nat.testBit_bit_zero b _
    | succ i => rw [Nat.testBit_bit_succ, ih, List.getD_cons_succ]

theorem getLsbD_octetOfBits {t u : Nat} (ht : t ≤ 8) (hu : u < t) (s : Bits) :
    (octetOfBits t s).getLsbD (t - 1 - u) = s.getD u false := by
  have hlow : t - 1 - u < 8 := by omega
  have hlen : (s.take t ++ List.replicate (t - s.length) false).length = t := by simp; omega
  have hback : t - 1 - (t - 1 - u) = u := by omega
  simp only [octetOfBits, BitVec.getLsbD_ofNat, hlow, decide_true, Bool.true_and, testBit_bitsValue,
    List.getD_eq_getElem?_getD]
  rw [List.getElem?_reverse (by omega), hlen, hback, List.getElem?_append, List.getElem?_replicate]
  rcases Nat.lt_or_ge u s.length with hus | hus
  · simp [hu, hus]
  · have hpad : u - min t s.length < t - s.length := by omega
    simp [Nat.not_lt.2 hus, hpad]

theorem getLsbD_octetOfBits_of_le {t v : Nat} (hv : t ≤ v) (s : Bits) : (octetOfBits t s).getLsbD v = false := by
  have hlen : (s.take t ++ List.replicate (t - s.length) false).reverse.length ≤ v := by simp; omega
  rw [octetOfBits, BitVec.getLsbD_ofNat, testBit_bitsValue, List.getD_eq_default _ _ hlen, Bool.and_false]

/-- The bits above the low `t` are 0 exactly in the octets below `2^t`. -/
theorem octet_lt_iff (t : Nat) (o : Byte) : o.toNat < 2 ^ t ↔ ∀ v, t ≤ v → o.getLsbD v = false :=
  ⟨fun h v hv => Nat.testBit_lt_two_pow (h.trans_le (Nat.pow_le_pow_right (by omega) hv)),
    Nat.lt_pow_two_of_testBit o.toNat⟩

theorem octetOfBits_lt (t : Nat) (s : Bits) : (octetOfBits t s).toNat < 2 ^ t :=
  (octet_lt_iff t _).2 fun _ hv => getLsbD_octetOfBits_of_le hv s

theorem getD_octetBits {t u : Nat} (hu : u < t) (o : Byte) (r : Bits) :
    (octetBits t o ++ r).getD u false = o.getLsbD (t - 1 - u) := by
  rw [List.getD_append _ _ _ _ (by simpa using hu)]
  simp [octetBits, List.getD_eq_getElem?_getD, hu]

/-- An octet below `2^t` is made again from its low `t` bits. -/
theorem octetOfBits_octetBits {t : Nat} (ht : t ≤ 8) {o : Byte} (ho : o.toNat < 2 ^ t) (r : Bits) :
    octetOfBits t (octetBits t o ++ r) = o := by
  refine BitVec.eq_of_getLsbD_eq fun v _ => ?_
  rcases Nat.lt_or_ge v t with hv | hv
  · have hback : t - 1 - (t - 1 - v) = v := by omega
    have hbit := getLsbD_octetOfBits ht (u := t - 1 - v) (by omega) (octetBits t o ++ r)
    rwa [getD_octetBits (by omega), hback] at hbit
  · rw [getLsbD_octetOfBits_of_le hv, (octet_lt_iff t o).1 ho v hv]

/-! ### Where each bit of the sequence sits (R100, R101) -/

/-- Octet `j` holds the bits from `j t` on. -/
theorem packOctets_eq_map (t n : Nat) (s : Bits) :
    packOctets t n s = (List.range n).map fun j => octetOfBits t (s.drop (j * t)) := by
  induction n generalizing s with
  | zero => rfl
  | succ n ih =>
    rw [packOctets, ih, List.range_succ_eq_map, List.map_cons, List.map_map]
    simp [Function.comp_def, Nat.succ_mul, Nat.add_comm]

theorem packForm_getElem?_eq_some {t j : Nat} {s : Bits} {o : Byte} (h : (packForm t s)[j]? = some o) :
    o = octetOfBits t (s.drop (j * t)) := by
  rw [packForm, packOctets_eq_map, List.getElem?_map] at h
  obtain ⟨i, hi, rfl⟩ := Option.map_eq_some_iff.1 h
  obtain ⟨-, rfl⟩ := List.getElem?_eq_some_iff.1 hi
  rw [List.getElem_range]

theorem getD_drop_bits (s : Bits) (n u : Nat) : (s.drop n).getD u false = s.getD (n + u) false := by
  simp [List.getD_eq_getElem?_getD]

theorem getLsbD_packForm {t u : Nat} (ht : t ≤ 8) (hu : u < t) (s : Bits) (j : Nat) :
    ((packForm t s).getD j 0).getLsbD (t - 1 - u) = s.getD (j * t + u) false := by
  cases h : (packForm t s)[j]? with
  | some o => rw [List.getD_eq_getElem?_getD, h, Option.getD_some, packForm_getElem?_eq_some h,
      getLsbD_octetOfBits ht hu, getD_drop_bits]
  | none =>
    have hle : s.length ≤ t * j := (ceilDiv_le_iff (by omega)).1 (by simpa using h)
    rw [List.getD_eq_getElem?_getD, h, Option.getD_none,
      List.getD_eq_default _ _ (by rw [Nat.mul_comm]; omega)]
    exact BitVec.getLsbD_zero

theorem getD_unpackForm {t : Nat} (ht : 0 < t) (x : Bytes) (i : Nat) :
    (unpackForm t x).getD i false = (x.getD (i / t) 0).getLsbD (t - 1 - i % t) := by
  induction x generalizing i with
  | nil => exact BitVec.getLsbD_zero.symm
  | cons o x ih =>
    rw [unpackForm_cons]
    rcases Nat.lt_or_ge i t with hi | hi
    · rw [getD_octetBits hi, Nat.div_eq_of_lt hi, Nat.mod_eq_of_lt hi, List.getD_cons_zero]
    · rw [List.getD_append_right _ _ _ _ (by simpa using hi), octetBits_length, ih, Nat.div_eq_sub_div ht hi,
        List.getD_cons_succ, Nat.mod_eq_sub_mod hi]

/-! ### Packing and reading back -/

theorem ppduBits_length {t l : Nat} {x : Bytes} (ht : 0 < t) (hx : x.length = ceilDiv l t) :
    (ppduBits t l x).length = l := by
  simpa [ppduBits] using (ceilDiv_le_iff ht).1 hx.ge

theorem getD_ppduBits {t l i : Nat} (ht : 0 < t) (hi : i < l) (x : Bytes) :
    (ppduBits t l x).getD i false = (x.getD (i / t) 0).getLsbD (t - 1 - i % t) := by
  rw [← getD_unpackForm ht]
  simp [ppduBits, List.getD_eq_getElem?_getD, hi]

/-- The bits of a sequence's form, up to its length, are the sequence. -/
theorem ppduBits_packForm {t l : Nat} (ht : t ∈ [1, 2, 4, 8]) {s : Bits} (hs : s.length = l) :
    ppduBits t l (packForm t s) = s := by
  subst hs
  obtain ⟨hpos, hle⟩ := tag_pos_le ht
  refine List.ext_getElem (ppduBits_length hpos (packForm_length t s)) fun i hi hi' => ?_
  rw [← List.getD_eq_getElem _ false hi, ← List.getD_eq_getElem _ false hi', getD_ppduBits hpos hi',
    getLsbD_packForm hle (Nat.mod_lt i hpos), Nat.div_add_mod']

theorem ceilDiv_mul_self {t : Nat} (ht : 0 < t) (n : Nat) : ceilDiv (t * n) t = n := by
  rw [ceilDiv, Nat.add_sub_assoc ht, Nat.mul_add_div ht, Nat.div_eq_of_lt (by omega), Nat.add_zero]

/-- Octets below `2^t` are the form of their own bits. -/
theorem packForm_unpackForm {t : Nat} (ht : t ∈ [1, 2, 4, 8]) {x : Bytes} (hx : ∀ o ∈ x, o.toNat < 2 ^ t) :
    packForm t (unpackForm t x) = x := by
  obtain ⟨hpos, hle⟩ := tag_pos_le ht
  rw [packForm, unpackForm_length, ceilDiv_mul_self hpos]
  induction x with
  | nil => rfl
  | cons o x ih =>
    obtain ⟨ho, hx⟩ := List.forall_mem_cons.1 hx
    rw [List.length_cons, packOctets, unpackForm_cons, octetOfBits_octetBits hle ho,
      List.drop_left' (octetBits_length t o), ih hx]

/-! ### PPDU_REPACK (R102) -/

/-- A PPDU of `l` bits in form `t`, as the checks of R102 accept it. -/
structure ValidPpdu (t l : Nat) (x : Bytes) : Prop where
  tag : t ∈ [1, 2, 4, 8]
  count : x.length = ceilDiv l t
  below : ∀ o ∈ x, o.toNat < 2 ^ t

theorem packForm_valid {t l : Nat} (ht : t ∈ [1, 2, 4, 8]) {s : Bits} (hs : s.length = l) :
    ValidPpdu t l (packForm t s) where
  tag := ht
  count := hs ▸ packForm_length t s
  below o ho := by
    obtain ⟨j, hj⟩ := List.getElem?_of_mem ho
    rw [packForm_getElem?_eq_some hj]
    exact octetOfBits_lt t _

theorem octetsBelow_iff (t : Nat) (x : Bytes) : octetsBelow t x = true ↔ ∀ o ∈ x, o.toNat < 2 ^ t := by
  simp [octetsBelow]

section Repack

variable {s t : State} {st dt : BitVec 4}

/-- What PPDU_REPACK answers. -/
def repackReply (s : State) (st dt : BitVec 4) : State :=
  s.reply s.opa 0 (packForm dt.toNat (ppduBits st.toNat s.opa.toNat s.input))

theorem exec_ppduRepack_of_valid (hfits : ioFits s.params s.input.length = true)
    (hv : ValidPpdu st.toNat s.opa.toNat s.input) (hdt : dt.toNat ∈ [1, 2, 4, 8]) :
    exec (.ppduRepack st dt) s = .next (repackReply s st dt) := by
  have htags := Bool.and_eq_true_iff.2 ⟨(tagSupported_iff _).2 hv.tag, (tagSupported_iff _).2 hdt⟩
  simp only [exec, execPpduRepack, runCommand_of_fits hfits, htags, opaBitLength, hv.count,
    (octetsBelow_iff _ _).2 hv.below, Bool.not_true, Bool.false_eq_true, ne_eq, not_true_eq_false, if_false,
    BitVec.ofNat_toNat, BitVec.setWidth_eq]
  rfl

theorem exec_ppduRepack_of_not_valid (hfits : ioFits s.params s.input.length = true)
    (hv : ¬ (ValidPpdu st.toNat s.opa.toNat s.input ∧ dt.toNat ∈ [1, 2, 4, 8])) :
    exec (.ppduRepack st dt) s = .next (s.raise .badFormat) := by
  rw [exec, execPpduRepack, runCommand_of_fits hfits]
  congr 1
  split_ifs with htags hcount hbelow
  · rfl
  · rfl
  · rfl
  · simp only [Bool.not_eq_true', Bool.not_eq_false, Bool.and_eq_true, tagSupported_iff, octetsBelow_iff, ne_eq,
      not_not, opaBitLength] at htags hcount hbelow
    exact absurd ⟨⟨htags.1, hcount, hbelow⟩, htags.2⟩ hv

theorem repackReply_of_fits (hv : ValidPpdu st.toNat s.opa.toNat s.input)
    (hout : ioFits s.params (ceilDiv s.opa.toNat dt.toNat) = true) :
    repackReply s st dt = s.complete s.opa 0 (packForm dt.toNat (ppduBits st.toNat s.opa.toNat s.input)) := by
  refine reply_of_fits ?_ _ _
  rwa [packForm_length, ppduBits_length (tag_pos_le hv.tag).1 hv.count]

theorem repackReply_of_not_fits (hv : ValidPpdu st.toNat s.opa.toNat s.input)
    (hout : ioFits s.params (ceilDiv s.opa.toNat dt.toNat) = false) :
    repackReply s st dt = s.raise .badFormat := by
  refine finish_of_not_fits ?_ _ _ _
  rwa [packForm_length, ppduBits_length (tag_pos_le hv.tag).1 hv.count]

/-- Repacking the form of `bits` gives their other form. -/
theorem exec_ppduRepack_packForm {bits : Bits} (hst : st.toNat ∈ [1, 2, 4, 8]) (hdt : dt.toNat ∈ [1, 2, 4, 8])
    (hbits : bits.length = s.opa.toNat) (hin : s.input = packForm st.toNat bits)
    (hfits : ioFits s.params s.input.length = true)
    (hout : ioFits s.params (ceilDiv s.opa.toNat dt.toNat) = true) :
    exec (.ppduRepack st dt) s = .next (s.complete s.opa 0 (packForm dt.toNat bits)) := by
  have hv : ValidPpdu st.toNat s.opa.toNat s.input := hin ▸ packForm_valid hst hbits
  rw [exec_ppduRepack_of_valid hfits hv hdt, repackReply_of_fits hv hout, hin, ppduBits_packForm hst hbits]

/-- A repack answered `OK` passed every check, and both sequences fit. -/
theorem ppduRepack_ok (h : exec (.ppduRepack st dt) s = .next t) (hok : t.status = 0) :
    ioFits s.params s.input.length = true ∧ ValidPpdu st.toNat s.opa.toNat s.input ∧ dt.toNat ∈ [1, 2, 4, 8] ∧
      ioFits s.params t.out.length = true ∧
      t = s.complete s.opa 0 (packForm dt.toNat (ppduBits st.toNat s.opa.toNat s.input)) := by
  have hnotRaised : t ≠ s.raise .badFormat := by
    rintro rfl
    exact absurd (eq_ok_of_raiseWith_status hok) (by decide)
  cases hfits : ioFits s.params s.input.length with
  | false =>
    rw [exec, execPpduRepack, runCommand_of_not_fits hfits] at h
    cases h
    exact absurd rfl hnotRaised
  | true =>
    by_cases hv : ValidPpdu st.toNat s.opa.toNat s.input ∧ dt.toNat ∈ [1, 2, 4, 8]
    · obtain ⟨hv, hdt⟩ := hv
      rw [exec_ppduRepack_of_valid hfits hv hdt] at h
      cases h
      rcases finish_cases s s s.opa 0 (packForm dt.toNat (ppduBits st.toNat s.opa.toNat s.input)) with
        ⟨hout, hcomplete⟩ | ⟨-, hraise⟩
      · exact ⟨rfl, hv, hdt, (congrArg (fun w => ioFits s.params w.out.length) hcomplete).trans hout, hcomplete⟩
      · exact absurd hraise hnotRaised
    · rw [exec_ppduRepack_of_not_valid hfits hv] at h
      cases h
      exact absurd rfl hnotRaised

end Repack

/-! ### The obligations -/

/-- Settles O35: octet `j` holds the bits from `j t` on, and each octet's bits are known by place. -/
theorem formHoldsTheBitsMsbFirst : Obligations.FormHoldsTheBitsMsbFirst := by
  intro t s ht
  refine ⟨packForm_length t s, fun j o ho => ?_⟩
  obtain rfl := packForm_getElem?_eq_some ho
  refine ⟨fun u hu => ?_, fun v hv => getLsbD_octetOfBits_of_le hv _⟩
  rw [getLsbD_octetOfBits (tag_pos_le ht).2 hu, getD_drop_bits]

/-- Settles O36: the checks pass and the result fits; the bits are those `getD_ppduBits` finds in `IN`. -/
theorem ppduRepackCompletes : Obligations.PpduRepackCompletes := by
  intro s st dt hfits hst hdt hcount hbelow hout
  have hv : ValidPpdu st.toNat s.opa.toNat s.input := ⟨hst, hcount, hbelow⟩
  have hpos := (tag_pos_le hst).1
  refine ⟨ppduBits_length hpos hcount, fun i hi => getD_ppduBits hpos hi s.input, ?_⟩
  rw [exec_ppduRepack_of_valid hfits hv hdt, repackReply_of_fits hv hout]
  rfl

/-- Settles O37: a PPDU that is not valid fails a check; a valid one whose result is too long is refused at the end. -/
theorem ppduRepackRejectsBadInput : Obligations.PpduRepackRejectsBadInput := by
  intro s st dt hfits
  refine ⟨fun hbad => exec_ppduRepack_of_not_valid hfits ?_, fun hst hdt hcount hbelow hout => ?_⟩
  · rintro ⟨⟨hst, hcount, hbelow⟩, hdt⟩
    rcases hbad with h | h | h | ⟨o, ho, hle⟩
    · exact h hst
    · exact h hdt
    · exact h hcount
    · exact absurd (hbelow o ho) (Nat.not_lt.2 hle)
  · have hv : ValidPpdu st.toNat s.opa.toNat s.input := ⟨hst, hcount, hbelow⟩
    rw [exec_ppduRepack_of_valid hfits hv hdt, repackReply_of_not_fits hv hout]
    rfl

/-- Settles O38: the first repack's result is a valid PPDU of the same bits, so the second passes every check, and its
result is as long as `IN` was, which fitted. -/
theorem repackingIsLossless : Obligations.RepackingIsLossless := by
  intro s t st dt hexec hok
  obtain ⟨hfits, hv, hdt, hout, rfl⟩ := ppduRepack_ok hexec hok
  have hbits := ppduBits_length (tag_pos_le hv.tag).1 hv.count
  refine ⟨_, exec_ppduRepack_packForm hdt hv.tag hbits rfl hout (hv.count ▸ hfits), rfl, rfl,
    ppduBits_packForm hv.tag hbits, ?_⟩
  rintro rfl - hopa
  have hwhole : ppduBits 8 s.opa.toNat s.input = unpackForm 8 s.input :=
    List.take_of_length_le (by rw [unpackForm_length, hopa])
  exact (congrArg (packForm 8) hwhole).trans (packForm_unpackForm hv.tag hv.below)

end Sys2Proof.Machine

/-!
PROOFS. 42_golay.md: the parity map (R111), the decoder (R112, R113, R116), the four Golay commands (R114, R115, R118,
R119), and that the Golay and header commands hold no state (R120; 44_mpdu_header.md R157).

The decoder's facts rest on one: under a legal matrix every codeword but zero has eight ones or more
(`eight_le_popcount_golayEncode`). Two patterns with one syndrome differ by a codeword, so with fewer than eight ones
between them they are one pattern (`eq_of_golaySyndrome_eq`). The commands' facts rest on nine octets being three words.
-/

namespace Sys2Proof.Machine

/-! ### The parity map as a sum over the rows (R111) -/

/-- The sum of the rows whose data bit is set, where the first row's data bit is number `k` in MSB-first order. -/
def sumRows : List (BitVec 12) → Nat → BitVec 12 → BitVec 12
  | [], _, _ => 0
  | row :: rows, k, d => (if d.getMsbD k then row else 0) ^^^ sumRows rows (k + 1) d

theorem foldl_zipIdx_eq_xor_sumRows (b : List (BitVec 12)) (k : Nat) (d acc : BitVec 12) :
    (b.zipIdx k).foldl (fun acc e => if d.getMsbD e.2 then acc ^^^ e.1 else acc) acc = acc ^^^ sumRows b k d := by
  induction b generalizing k acc with
  | nil => simp [sumRows]
  | cons row rows ih =>
    rw [List.zipIdx_cons, List.foldl_cons, ih, sumRows]
    split <;> simp [BitVec.xor_assoc]

theorem parityMap_eq_sumRows (b : List (BitVec 12)) (d : BitVec 12) : parityMap b d = sumRows b 0 d :=
  (foldl_zipIdx_eq_xor_sumRows b 0 d 0).trans BitVec.zero_xor

theorem sumRows_xor (b : List (BitVec 12)) (k : Nat) (d d' : BitVec 12) :
    sumRows b k (d ^^^ d') = sumRows b k d ^^^ sumRows b k d' := by
  induction b generalizing k with
  | nil => simp [sumRows]
  | cons row rows ih =>
    have hrow : (if d.getMsbD k ^^ d'.getMsbD k then row else 0) =
        (if d.getMsbD k then row else 0) ^^^ (if d'.getMsbD k then row else 0) := by
      cases d.getMsbD k <;> cases d'.getMsbD k <;> simp
    simp only [sumRows, ih, BitVec.getMsbD_xor, hrow]
    ac_rfl

theorem parityMap_xor (b : List (BitVec 12)) (d d' : BitVec 12) :
    parityMap b (d ^^^ d') = parityMap b d ^^^ parityMap b d' := by
  simp only [parityMap_eq_sumRows, sumRows_xor]

@[simp] theorem parityMap_zero (b : List (BitVec 12)) : parityMap b 0#12 = 0#12 := by
  simpa using parityMap_xor b 0#12 0#12

/-- With no data bit set from number `k` on, no row is taken. -/
theorem sumRows_eq_zero {b : List (BitVec 12)} {k : Nat} {d : BitVec 12} (h : ∀ j, k ≤ j → d.getMsbD j = false) :
    sumRows b k d = 0#12 := by
  induction b generalizing k with
  | nil => rfl
  | cons row rows ih =>
    rw [sumRows, h k le_rfl, ih fun j hj => h j (by omega)]
    simp

/-- With data bit `k + i` the only one set from number `k` on, row `i` is taken alone. -/
theorem sumRows_eq_row {b : List (BitVec 12)} {k i : Nat} {d row : BitVec 12} (hrow : b[i]? = some row)
    (h : ∀ j, k ≤ j → d.getMsbD j = decide (j = k + i)) : sumRows b k d = row := by
  induction b generalizing k i with
  | nil => simp at hrow
  | cons head rows ih =>
    rw [sumRows, h k le_rfl]
    cases i with
    | zero =>
      obtain rfl : head = row := by simpa using hrow
      rw [sumRows_eq_zero fun j hj => by rw [h j (by omega)]; exact decide_eq_false (by omega)]
      simp
    | succ i =>
      rw [ih (i := i) (by simpa using hrow) fun j hj => by rw [h j (by omega)]; exact decide_eq_decide.2 (by omega)]
      simp

/-! ### Population counts of sums -/

@[simp] theorem popcount_zero (n : Nat) : popcount 0#n = 0 := by
  simp [popcount_eq_sum]

theorem eq_zero_of_popcount {n : Nat} {v : BitVec n} (h : popcount v = 0) : v = 0#n := by
  rw [popcount_eq_sum, Finset.sum_eq_zero_iff] at h
  refine BitVec.eq_of_getLsbD_eq fun i hi => ?_
  simpa using h i (Finset.mem_range.2 hi)

theorem popcount_xor_le {n : Nat} (a b : BitVec n) : popcount (a ^^^ b) ≤ popcount a + popcount b := by
  simp only [popcount_eq_sum, ← Finset.sum_add_distrib]
  refine Finset.sum_le_sum fun i _ => ?_
  rw [BitVec.getLsbD_xor]
  cases a.getLsbD i <;> cases b.getLsbD i <;> decide

/-- The ones may be counted in MSB-first order. -/
theorem popcount_eq_sum_getMsbD {n : Nat} (v : BitVec n) :
    popcount v = ∑ i ∈ Finset.range n, (v.getMsbD i).toNat := by
  rw [popcount_eq_sum, ← Finset.sum_range_reflect]
  refine Finset.sum_congr rfl fun i hi => ?_
  rw [BitVec.getMsbD_eq_getLsbD, decide_eq_true (Finset.mem_range.1 hi), Bool.true_and]

/-! ### The minimum weight of the code (R110) -/

/-- What the check of a matrix finds out about the rows from number `k` on: a sum of some of them, with the `w` rows and
the parity half `acc` taken before, is no row at all or has weight 8 or more. -/
theorem weight_of_sumsHaveWeight8 {rows : List (BitVec 12)} {w : Nat} {acc : BitVec 12}
    (h : sumsHaveWeight8 rows w acc = true) (k : Nat) (d : BitVec 12) :
    let taken := w + ∑ i ∈ Finset.range rows.length, (d.getMsbD (k + i)).toNat
    taken = 0 ∨ 8 ≤ taken + popcount (acc ^^^ sumRows rows k d) := by
  induction rows generalizing w acc k with
  | nil => simpa [sumsHaveWeight8, sumRows] using h
  | cons row rows ih =>
    rw [sumsHaveWeight8, Bool.and_eq_true] at h
    obtain ⟨hskip, htake⟩ := h
    simp only [List.length_cons, Finset.sum_range_succ', Nat.add_zero, sumRows, ← Nat.add_assoc,
      Nat.add_right_comm k _ 1]
    cases hbit : d.getMsbD k with
    | false => simpa using ih hskip (k + 1)
    | true =>
      have := ih htake (k + 1)
      simp only [if_true, Bool.toNat_true, ← BitVec.xor_assoc]
      omega

/-- Every codeword of a legal matrix but zero has eight ones or more. -/
theorem eight_le_popcount_golayEncode {b : List (BitVec 12)} (hb : golayMatrixOk b = true) {d : BitVec 12}
    (hd : d ≠ 0#12) : 8 ≤ popcount (golayEncode b d) := by
  obtain ⟨hlength, hsums⟩ := (golayMatrixOk_iff b).1 hb
  have hweight := weight_of_sumsHaveWeight8 hsums 0 d
  simp only [hlength, Nat.zero_add, ← popcount_eq_sum_getMsbD, ← parityMap_eq_sumRows, BitVec.ofNat_eq_ofNat,
    BitVec.zero_xor] at hweight
  rw [golayEncode, popcount_append]
  exact hweight.resolve_left fun h => hd (eq_zero_of_popcount h)

/-! ### The syndrome (R112) -/

theorem golaySyndrome_xor (b : List (BitVec 12)) (r r' : BitVec 24) :
    golaySyndrome b (r ^^^ r') = golaySyndrome b r ^^^ golaySyndrome b r' := by
  simp only [golaySyndrome, golayDataHalf, golayParityHalf, BitVec.extractLsb'_xor, parityMap_xor]
  ac_rfl

@[simp] theorem golaySyndrome_golayEncode (b : List (BitVec 12)) (d : BitVec 12) :
    golaySyndrome b (golayEncode b d) = 0#12 := by
  rw [golayEncode, golaySyndrome_append, BitVec.xor_self]

/-- Errors alone decide the syndrome of a received codeword. -/
theorem golaySyndrome_golayEncode_xor (b : List (BitVec 12)) (d : BitVec 12) (e : BitVec 24) :
    golaySyndrome b (golayEncode b d ^^^ e) = golaySyndrome b e := by
  rw [golaySyndrome_xor, golaySyndrome_golayEncode, BitVec.zero_xor]

theorem eq_golayEncode_of_golaySyndrome {b : List (BitVec 12)} {r : BitVec 24} (h : golaySyndrome b r = 0#12) :
    r = golayEncode b (golayDataHalf r) := by
  rw [golaySyndrome, BitVec.xor_eq_zero_iff] at h
  rw [golayEncode, h, golay_halves]

/-- Two patterns with one syndrome and fewer than eight ones between them are one pattern: they differ by a codeword. -/
theorem eq_of_golaySyndrome_eq {b : List (BitVec 12)} (hb : golayMatrixOk b = true) {e e' : BitVec 24}
    (hsyn : golaySyndrome b e = golaySyndrome b e') (hlight : popcount e + popcount e' < 8) : e = e' := by
  have hcode : e ^^^ e' = golayEncode b (golayDataHalf (e ^^^ e')) := by
    refine eq_golayEncode_of_golaySyndrome ?_
    rw [golaySyndrome_xor, hsyn, BitVec.xor_self]
  have hdata : golayDataHalf (e ^^^ e') = 0#12 := by
    by_contra hne
    have hheavy := eight_le_popcount_golayEncode hb hne
    rw [← hcode] at hheavy
    have := popcount_xor_le e e'
    omega
  rw [hdata, golayEncode, parityMap_zero] at hcode
  exact BitVec.xor_eq_zero_iff.1 hcode

/-! ### The decoder map (R113, R116) -/

/-- A light pattern with the syndrome of `r` is the one the search finds. -/
theorem golayDecode_of_light {b : List (BitVec 12)} (hb : golayMatrixOk b = true) {r e : BitVec 24}
    (he : popcount e ≤ 3) (hsyn : golaySyndrome b e = golaySyndrome b r) :
    golayDecode b r = { data := golayDataHalf (r ^^^ e), ok := true, nerr := BitVec.ofNat 8 (popcount e) } := by
  rw [golayDecode]
  cases hsearch : golayError b (golaySyndrome b r) with
  | none => exact absurd hsyn (golayError_none hsearch e he)
  | some found =>
    obtain ⟨hfound, hfoundSyn⟩ := golayError_some hsearch
    obtain rfl : found = e := eq_of_golaySyndrome_eq hb (hfoundSyn.trans hsyn.symm) (by omega)
    rfl

/-- With no light pattern of the syndrome of `r` the search finds nothing. -/
theorem golayDecode_of_no_light {b : List (BitVec 12)} {r : BitVec 24}
    (h : ∀ e : BitVec 24, popcount e ≤ 3 → golaySyndrome b e ≠ golaySyndrome b r) :
    golayDecode b r = { data := golayDataHalf r, ok := false, nerr := 4 } := by
  rw [golayDecode]
  cases hsearch : golayError b (golaySyndrome b r) with
  | none => rfl
  | some found =>
    obtain ⟨hfound, hfoundSyn⟩ := golayError_some hsearch
    exact absurd hfoundSyn (h found hfound)

theorem golayDecode_golayEncode_xor {b : List (BitVec 12)} (hb : golayMatrixOk b = true) (d : BitVec 12)
    {e : BitVec 24} (he : popcount e ≤ 3) :
    golayDecode b (golayEncode b d ^^^ e) = { data := d, ok := true, nerr := BitVec.ofNat 8 (popcount e) } := by
  rw [golayDecode_of_light hb he (golaySyndrome_golayEncode_xor b d e).symm, BitVec.xor_assoc, BitVec.xor_self,
    BitVec.xor_zero, golayEncode, golayDataHalf_append]

/-- An intact codeword decodes to its data. -/
theorem golayDecode_golayEncode {b : List (BitVec 12)} (hb : golayMatrixOk b = true) (d : BitVec 12) :
    golayDecode b (golayEncode b d) = { data := d, ok := true, nerr := 0 } := by
  simpa using golayDecode_golayEncode_xor hb d (e := 0#24) (by simp)

/-! ### The obligations on the code and its decoder -/

/-- Settles O19: the map is a sum over the rows, and of a single data bit it takes that bit's row. -/
theorem parityMapIsLinearOnTheRows : Obligations.ParityMapIsLinearOnTheRows := by
  intro b hlength
  refine ⟨parityMap_zero b, parityMap_xor b, fun i row hrow => ?_⟩
  have hi : i < 12 := hlength ▸ (List.getElem?_eq_some_iff.1 hrow).1
  rw [parityMap_eq_sumRows]
  refine sumRows_eq_row hrow fun j _ => ?_
  rw [BitVec.getMsbD_twoPow, decide_eq_true (by omega), Bool.true_and]
  exact decide_eq_decide.2 (by omega)

/-- Settles O22: both outcomes of the search. -/
theorem golayDecodeIsBoundedDistance : Obligations.GolayDecodeIsBoundedDistance :=
  fun _ _ hb => ⟨fun _ he hsyn => golayDecode_of_light hb he hsyn, fun h => golayDecode_of_no_light h⟩

/-- Settles O23: the errors are the light pattern of the received word's syndrome. -/
theorem golayCorrectsUpToThreeErrors : Obligations.GolayCorrectsUpToThreeErrors :=
  fun _ d _ hb he => golayDecode_golayEncode_xor hb d he

/-- Settles O24: a pattern of at most three ones with the syndrome of four errors would be those four errors. -/
theorem golayDetectsFourErrors : Obligations.GolayDetectsFourErrors := by
  intro b d e hb he
  refine golayDecode_of_no_light fun light hlight hsyn => ?_
  rw [golaySyndrome_golayEncode_xor] at hsyn
  obtain rfl := eq_of_golaySyndrome_eq hb hsyn (by omega)
  omega

/-! ### Nine octets are three words of 24 bits (20_memory.md R41) -/

/-- The three octets of a word, big-endian. -/
def octets24 (c : BitVec 24) : Bytes := [c.extractLsb' 16 8, c.extractLsb' 8 8, c.extractLsb' 0 8]

theorem octets72_eq_map (h : BitVec 72) :
    octets72 h = [64, 56, 48, 40, 32, 24, 16, 8, 0].map fun n => h.extractLsb' n 8 := by rfl

theorem octets72_append (x y z : BitVec 24) :
    octets72 (x ++ y ++ z) = octets24 x ++ octets24 y ++ octets24 z := by
  rw [octets72_eq_map]
  simp (disch := decide) only [octets24, List.map_cons, List.map_nil, List.cons_append, List.nil_append,
    BitVec.extractLsb'_append_eq_of_le, BitVec.extractLsb'_append_eq_of_add_le]

theorem octets24_append (x y z : Byte) : octets24 (x ++ y ++ z) = [x, y, z] := by
  simp (disch := decide) only [octets24, BitVec.extractLsb'_append_eq_of_le,
    BitVec.extractLsb'_append_eq_of_add_le]
  simp

/-- Reading an octet after the bits of `h` above it gives the bits of `h` down to that octet's last. -/
theorem setWidth_extractLsb'_shiftLeft_or (h : BitVec 72) (start len : Nat) :
    (h.extractLsb' (start + 8) len).setWidth 72 <<< 8 ||| (h.extractLsb' start 8).setWidth 72 =
      (h.extractLsb' start (len + 8)).setWidth 72 := by
  rw [← BitVec.setWidth_append_eq_shiftLeft_setWidth_or, BitVec.extractLsb'_append_extractLsb'_eq_extractLsb' rfl]

/-- Reading the octets of an integer gives the integer back (20_memory.md R41). -/
theorem be72_octets72 (h : BitVec 72) : be72 (octets72 h) = h := by
  rw [octets72_eq_map]
  simp only [be72, List.map_cons, List.map_nil, List.foldl_cons, List.foldl_nil, BitVec.ofNat_eq_ofNat,
    BitVec.zero_shiftLeft, BitVec.zero_or]
  iterate 8 rw [setWidth_extractLsb'_shiftLeft_or]
  rw [BitVec.setWidth_eq]
  exact BitVec.extractLsb'_eq_self

@[simp] theorem word72_zero_append (x y z : BitVec 24) : word72 (x ++ y ++ z) 0 = x := by
  simp only [word72]
  rw [BitVec.extractLsb'_append_eq_of_le (by decide)]
  exact BitVec.extractLsb'_append_eq_left

@[simp] theorem word72_one_append (x y z : BitVec 24) : word72 (x ++ y ++ z) 1 = y := by
  simp only [word72]
  rw [BitVec.extractLsb'_append_eq_of_le (by decide)]
  exact BitVec.extractLsb'_append_eq_right

@[simp] theorem word72_two_append (x y z : BitVec 24) : word72 (x ++ y ++ z) 2 = z :=
  BitVec.extractLsb'_append_eq_right

/-! ### Results packed in a register (R115, R119) -/

theorem toNat_append_eq_add {m n : Nat} (x : BitVec m) (y : BitVec n) :
    (x ++ y).toNat = x.toNat * 2 ^ n + y.toNat := by
  rw [BitVec.toNat_append, ← Nat.shiftLeft_add_eq_or_of_lt y.isLt, Nat.shiftLeft_eq]

theorem packGolayDec_eq (ok : Bool) (nerr : BitVec 8) :
    packGolayDec ok nerr = (nerr.setWidth 32 <<< 8) ||| (BitVec.ofBool ok).setWidth 32 := by
  rw [packGolayDec, ← BitVec.setWidth_eq (0#16 ++ nerr ++ 0#7 ++ BitVec.ofBool ok),
    BitVec.setWidth_append_append_append_eq_shiftLeft_setWidth_or]
  simp

theorem toNat_packGolay3Dec (nerr0 nerr1 nerr2 : BitVec 8) (ok0 ok1 ok2 valid : Bool) :
    (packGolay3Dec nerr0 nerr1 nerr2 ok0 ok1 ok2 valid).toNat =
      nerr2.toNat * 2 ^ 24 + nerr1.toNat * 2 ^ 16 + nerr0.toNat * 2 ^ 8 + ok2.toNat * 8 + ok1.toNat * 4 +
        ok0.toNat * 2 + valid.toNat := by
  simp only [packGolay3Dec, toNat_append_eq_add, BitVec.toNat_ofBool, BitVec.toNat_ofNat]
  omega

theorem packGolay3Dec_eq_ofNat (nerr0 nerr1 nerr2 : BitVec 8) (ok0 ok1 ok2 valid : Bool) :
    packGolay3Dec nerr0 nerr1 nerr2 ok0 ok1 ok2 valid =
      BitVec.ofNat 32 (nerr2.toNat * 2 ^ 24 + nerr1.toNat * 2 ^ 16 + nerr0.toNat * 2 ^ 8 + ok2.toNat * 8 +
        ok1.toNat * 4 + ok0.toNat * 2 + valid.toNat) := by
  rw [← toNat_packGolay3Dec, BitVec.ofNat_toNat, BitVec.setWidth_eq]

theorem getLsbD_zero_packGolay3Dec (nerr0 nerr1 nerr2 : BitVec 8) (ok0 ok1 ok2 valid : Bool) :
    (packGolay3Dec nerr0 nerr1 nerr2 ok0 ok1 ok2 valid).getLsbD 0 = valid := by
  rw [packGolay3Dec, BitVec.getLsbD_append]
  simp

/-! ### The vote (R119; 00_scope.md R14) -/

@[simp] theorem maj_left_self {n : Nat} (d x : BitVec n) : maj d d x = d := by
  refine BitVec.eq_of_getLsbD_eq fun i _ => ?_
  simp only [maj, BitVec.getLsbD_or, BitVec.getLsbD_and]
  cases d.getLsbD i <;> simp

theorem maj_comm_right {n : Nat} (x y z : BitVec n) : maj x y z = maj x z y := by
  simp only [maj, BitVec.or_comm (x &&& y), BitVec.and_comm y]

theorem maj_rotate {n : Nat} (x y z : BitVec n) : maj x y z = maj y z x := by
  simp only [maj, BitVec.and_comm x]
  ac_rfl

@[simp] theorem maj_outer_self {n : Nat} (d x : BitVec n) : maj d x d = d := by
  rw [maj_comm_right, maj_left_self]

@[simp] theorem maj_right_self {n : Nat} (d x : BitVec n) : maj x d d = d := by
  rw [maj_rotate, maj_left_self]

theorem toNat_voteValid (ok0 ok1 ok2 : Bool) :
    (voteValid ok0 ok1 ok2).toNat = if 2 ≤ ok0.toNat + ok1.toNat + ok2.toNat then 1 else 0 :=
  Bool.cond_decide _ 1 0

theorem voteValid_of_two_ok : ∀ ok : Bool,
    voteValid ok true true = true ∧ voteValid true ok true = true ∧ voteValid true true ok = true := by
  decide

/-! ### What the commands answer (R114, R115, R118, R119) -/

section Commands

variable {s : State}

theorem exec_golayEnc (hfits : ioFits s.params s.input.length = true) :
    exec .golayEnc s =
      .next (s.complete ((golayEncode s.params.golayB (opaGolayData s)).setWidth 32) 0 []) := by
  simp only [exec, execGolayEnc, runCommand_of_fits hfits, reply_nil]

theorem exec_golayDec (hfits : ioFits s.params s.input.length = true) :
    let d := golayDecode s.params.golayB (opaGolayWord s)
    exec .golayDec s = .next (s.complete (d.data.setWidth 32) (packGolayDec d.ok d.nerr) []) := by
  simp only [exec, execGolayDec, runCommand_of_fits hfits, reply_nil]

theorem exec_golay3Enc (hfits : ioFits s.params s.input.length = true) (hout : ioFits s.params 9 = true) :
    let c := golayEncode s.params.golayB (opaGolayData s)
    exec .golay3Enc s = .next (s.complete (c.setWidth 32) 0 (octets24 c ++ octets24 c ++ octets24 c)) := by
  simp only [exec, execGolay3Enc, runCommand_of_fits hfits]
  rw [reply_of_fits (by rwa [octets72_length]), octets72_append]

theorem exec_golay3Dec_of_length (hfits : ioFits s.params s.input.length = true) (hlength : s.input.length ≠ 9) :
    exec .golay3Dec s = .next (s.raise .badFormat) := by
  simp only [exec, execGolay3Dec, runCommand_of_fits hfits, if_pos hlength]

/-- The three words in `IN` are decoded one by one. -/
theorem exec_golay3Dec_of_words (hfits : ioFits s.params s.input.length = true) {x y z : BitVec 24}
    (hinput : s.input = octets72 (x ++ y ++ z)) :
    let d0 := golayDecode s.params.golayB x
    let d1 := golayDecode s.params.golayB y
    let d2 := golayDecode s.params.golayB z
    exec .golay3Dec s = .next (s.complete ((maj d0.data d1.data d2.data).setWidth 32)
      (packGolay3Dec d0.nerr d1.nerr d2.nerr d0.ok d1.ok d2.ok (voteValid d0.ok d1.ok d2.ok)) []) := by
  have hlength : s.input.length = 9 := by rw [hinput, octets72_length]
  simp only [exec, execGolay3Dec, runCommand_of_fits hfits, if_neg (not_not.2 hlength)]
  simp only [hinput, be72_octets72, word72_zero_append, word72_one_append, word72_two_append, reply_nil]

/-- What the host reads of a vote that is won by `d` and valid. -/
theorem golay3Dec_of_vote {t : State} (hfits : ioFits s.params s.input.length = true) {x y z : BitVec 24}
    (hinput : s.input = octets72 (x ++ y ++ z)) {d : BitVec 12} :
    let g := golayDecode s.params.golayB
    maj (g x).data (g y).data (g z).data = d → voteValid (g x).ok (g y).ok (g z).ok = true →
      exec .golay3Dec s = .next t → t.status = 0 ∧ t.res0 = d.setWidth 32 ∧ t.res1.getLsbD 0 = true := by
  intro g hdata hvalid hexec
  obtain rfl := Host.Outcome.next.inj ((exec_golay3Dec_of_words hfits hinput).symm.trans hexec)
  exact ⟨rfl, congrArg (BitVec.setWidth 32) hdata, (getLsbD_zero_packGolay3Dec _ _ _ _ _ _ _).trans hvalid⟩

end Commands

/-! ### The obligations on the commands -/

/-- Settles O20: the codeword is its data above its parity. -/
theorem golayEncCompletes : Obligations.GolayEncCompletes := by
  intro s hfits
  rw [exec_golayEnc hfits, golayEncode, BitVec.setWidth_append_eq_shiftLeft_setWidth_or]
  rfl

/-- Settles O21: the count stands above the correctable bit in `RES1`. -/
theorem golayDecCompletes : Obligations.GolayDecCompletes := by
  intro s hfits
  rw [exec_golayDec hfits, packGolayDec_eq]
  rfl

/-- Settles O25: the codeword's octets, three times. -/
theorem golay3EncCompletes : Obligations.Golay3EncCompletes :=
  fun _ hfits hout => exec_golay3Enc hfits hout

/-- Settles O26: nine octets are three words, and the parts of `RES1` do not overlap. -/
theorem golay3DecCompletes : Obligations.Golay3DecCompletes := by
  refine fun s hfits => ⟨fun x0 x1 x2 y0 y1 y2 z0 z1 z2 hinput => ?_, exec_golay3Dec_of_length hfits⟩
  have hwords : s.input = octets72 ((x0 ++ x1 ++ x2 : BitVec 24) ++ (y0 ++ y1 ++ y2 : BitVec 24) ++
      (z0 ++ z1 ++ z2 : BitVec 24)) := by
    rw [octets72_append, octets24_append, octets24_append, octets24_append, hinput]
    rfl
  rw [exec_golay3Dec_of_words hfits hwords, packGolay3Dec_eq_ofNat, toNat_voteValid]
  rfl

/-- Settles O27: two intact copies decode to the data, correctable, and so decide the vote and its validity. -/
theorem voterOutvotesOneBadCopy : Obligations.VoterOutvotesOneBadCopy := by
  intro s t d w hb hfits hinput hexec
  have hintact := golayDecode_golayEncode hb d
  obtain ⟨hvalid0, hvalid1, hvalid2⟩ := voteValid_of_two_ok (golayDecode s.params.golayB w).ok
  rcases hinput with h | h | h
  · exact golay3Dec_of_vote hfits h (by rw [hintact, maj_right_self]) (by rw [hintact]; exact hvalid0) hexec
  · exact golay3Dec_of_vote hfits h (by rw [hintact, maj_outer_self]) (by rw [hintact]; exact hvalid1) hexec
  · exact golay3Dec_of_vote hfits h (by rw [hintact, maj_left_self]) (by rw [hintact]; exact hvalid2) hexec

/-! ### No state is held (R120; 44_mpdu_header.md R157) -/

/-- Two states have the same four results. -/
structure SameResults (t t' : State) : Prop where
  status : t'.status = t.status
  res0 : t'.res0 = t.res0
  res1 : t'.res1 = t.res1
  out : t'.out = t.out

theorem ioFits_congr {p p' : Params} (h : p'.ioMax = p.ioMax) (n : Nat) : ioFits p' n = ioFits p n := by
  rw [ioFits, ioFits, h]

/-- Two outcomes are next states with the same four results. -/
def SameAnswers (o o' : Host.Outcome State Fault Refusal) : Prop :=
  ∃ t t', o = .next t ∧ o' = .next t' ∧ SameResults t t'

section SameInput

variable {s s' : State} (hio : s'.params.ioMax = s.params.ioMax)

include hio

theorem reply_sameResults (r0 r1 : Word) (out : Bytes) : SameResults (s.reply r0 r1 out) (s'.reply r0 r1 out) := by
  have hfits := ioFits_congr hio out.length
  rcases finish_cases s s r0 r1 out with ⟨h, ht⟩ | ⟨h, ht⟩
  · rw [State.reply, State.reply, ht, finish_of_fits (hfits.trans h)]
    exact ⟨rfl, rfl, rfl, rfl⟩
  · rw [State.reply, State.reply, ht, finish_of_not_fits (hfits.trans h)]
    exact ⟨rfl, rfl, rfl, rfl⟩

/-- Bodies with the same results make commands with the same results: both refuse an `IN` that is too long. -/
theorem runCommand_sameAnswers (hinput : s'.input = s.input) {body : State → State}
    (hbody : SameResults (body s) (body s')) : SameAnswers (runCommand s body) (runCommand s' body) := by
  have hfits' : ioFits s'.params s'.input.length = ioFits s.params s.input.length := by rw [hinput, ioFits_congr hio]
  cases hfits : ioFits s.params s.input.length with
  | true => exact ⟨_, _, runCommand_of_fits hfits body, runCommand_of_fits (hfits'.trans hfits) body, hbody⟩
  | false =>
    exact ⟨_, _, runCommand_of_not_fits hfits body, runCommand_of_not_fits (hfits'.trans hfits) body,
      ⟨rfl, rfl, rfl, rfl⟩⟩

end SameInput

/-- The commands of R120 and 44_mpdu_header.md R157. -/
def GolayOrHeader (i : Instr) : Prop :=
  i = .golayEnc ∨ i = .golayDec ∨ i = .golay3Enc ∨ i = .golay3Dec ∨ (∃ ec rf d, i = .hdrEnc ec rf d) ∨
    ∃ d, i = .hdrDec d

/-- Command by command: the body replies what `OPA`, `IN` and `GOLAY_B` say, or refuses the length of `IN`. -/
theorem exec_sameAnswers {i : Instr} (hi : GolayOrHeader i) {s s' : State} (hopa : s'.opa = s.opa)
    (hinput : s'.input = s.input) (hb : s'.params.golayB = s.params.golayB) (hio : s'.params.ioMax = s.params.ioMax) :
    SameAnswers (exec i s) (exec i s') := by
  cases i with
  | golayEnc | golayDec | golay3Enc | hdrEnc ec rf df1 =>
    apply runCommand_sameAnswers hio hinput
    simp only [opaGolayData, opaGolayWord, opaCfi, opaUpl, opaUpfi, hopa, hb]
    exact reply_sameResults hio _ _ _
  | golay3Dec | hdrDec df1 =>
    apply runCommand_sameAnswers hio hinput
    simp only [hinput, hb]
    split
    · exact ⟨rfl, rfl, rfl, rfl⟩
    · exact reply_sameResults hio _ _ _
  | _ => simp [GolayOrHeader] at hi

/-- None of these commands is one of the four that write `CODEC` or `REASM` (10_state.md R32). -/
theorem GolayOrHeader.keeps_codec_reasm {i : Instr} (hi : GolayOrHeader i) {s t : State} (h : exec i s = .next t) :
    t.codec = s.codec ∧ t.reasm = s.reasm := by
  obtain ⟨-, -, -, -, hcodec, hreasm, -⟩ := commandsWriteOnlyTheirOwnState i s t h
  rcases hi with rfl | rfl | rfl | rfl | ⟨ec, rf, d, rfl⟩ | ⟨d, rfl⟩ <;>
    exact ⟨hcodec (by simp), hreasm (by simp) (by simp) (by simp)⟩

/-- Settles O16: the same results command by command; the frame of O12. -/
theorem golayAndHeaderCommandsHoldNoState : Obligations.GolayAndHeaderCommandsHoldNoState := by
  intro i s s' t hi hopa hinput hb hio hexec
  obtain ⟨u, t', hu, ht', hsame⟩ := exec_sameAnswers hi hopa hinput hb hio
  obtain rfl := Host.Outcome.next.inj (hu.symm.trans hexec)
  exact ⟨t', ht', hsame.status, hsame.res0, hsame.res1, hsame.out, GolayOrHeader.keeps_codec_reasm hi hexec⟩

end Sys2Proof.Machine

/-!
PROOFS. 43_convolutional.md: the encoder step (R131), the Viterbi decoder (R135, R136), the commands CONV_INIT, CONV_ENC
and VIT_DEC (R130, R133, R134, R137) and their round trip (R138).

The decoder's facts rest on one: after every received pair the survivor into each state is a nearest path there, and of
the nearest the one that comes from the lower predecessor where two last part (`survivor_isSurvivor`, by induction over
the received pairs from the last). The traceback takes the lowest of the best states (`exists_startsIn_tracebackStart`).
Without channel errors the input is at distance 0, and only one input is (`eq_of_pathDistance_eq_zero`).
-/

namespace Sys2Proof.Machine

/-! ### One encoder step (R131) -/

theorem onesOfNat_mod_two (k v : Nat) :
    (onesOfNat k v % 2 == 1) = (List.range k).foldr (fun i p => xor (v.testBit i) p) false := by
  induction k generalizing v with
  | zero => rfl
  | succ k ih =>
    rw [List.range_succ_eq_map, List.foldr_cons, List.foldr_map]
    simp only [Nat.testBit_succ, ← ih, Nat.testBit_zero, onesOfNat]
    rcases Nat.mod_two_eq_zero_or_one v with hv | hv <;>
      rcases Nat.mod_two_eq_zero_or_one (onesOfNat k (v / 2)) with hw | hw <;>
      simp [hv, hw, Nat.add_mod]

/-- The parity is the exclusive or of the bits (00_scope.md R14). -/
theorem parity_eq_foldr_xor {n : Nat} (v : BitVec n) :
    parity v = (List.range n).foldr (fun i p => xor (v.getLsbD i) p) false :=
  onesOfNat_mod_two n v.toNat

theorem toNat_encNext (st : BitVec 6) (b : Bool) : (encNext st b).toNat = 32 * b.toNat + st.toNat / 2 := by
  rw [encNext, toNat_append_eq_add, BitVec.toNat_ofBool, BitVec.extractLsb'_toNat, Nat.shiftRight_eq_div_pow]
  omega

/-- The encoder's 7 bits: the current input above the register (R131). -/
theorem getLsbD_register (st : BitVec 6) (b : Bool) (i : Nat) :
    BitVec.getLsbD (w := 7) (BitVec.ofBool b ++ st) i =
      if i < 6 then st.getLsbD i else (BitVec.ofBool b).getLsbD (i - 6) :=
  BitVec.getLsbD_append

/-- Settles O30: the parity of the tapped register is the exclusive or of the bits where the polynomial has a 1. -/
theorem encoderStepTapsThePolynomials : Obligations.EncoderStepTapsThePolynomials := by
  intro st b
  refine ⟨toNat_encNext st b, ?_, ?_⟩
  all_goals
    simp only [encOutputs, parity_eq_foldr_xor, polyG1, polyG2, BitVec.getLsbD_and, BitVec.getLsbD_reverse,
      BitVec.getMsbD_eq_getLsbD, getLsbD_register]
    simp [List.range_succ, Bool.xor_comm, Bool.xor_left_comm]

/-- The two outputs for `b` differ in both bits: both ends of both polynomials are tapped (R131). -/
theorem encOutputs_injective (po : PolyOrder) (st : BitVec 6) {b b' : Bool}
    (h : encOutputs po st b = encOutputs po st b') : b = b' := by
  obtain ⟨-, hmsb, hlsb⟩ := encoderStepTapsThePolynomials st b
  obtain ⟨-, hmsb', hlsb'⟩ := encoderStepTapsThePolynomials st b'
  cases po with
  | msbCurrent => exact Bool.xor_left_inj.1 (Prod.ext_iff.1 (hmsb.symm.trans (h.trans hmsb'))).1
  | lsbCurrent => exact Bool.xor_left_inj.1 (Prod.ext_iff.1 (hlsb.symm.trans (h.trans hlsb'))).1

/-! ### The encoder (R132) -/

/-- The register after the input `v`, from register 0. -/
def endState (v : Bits) : BitVec 6 := v.foldl encNext 0

@[simp] theorem endState_concat (v : Bits) (b : Bool) : endState (v ++ [b]) = encNext (endState v) b :=
  List.foldl_concat ..

theorem convBitsFrom_append (po : PolyOrder) (st : BitVec 6) (u w : Bits) :
    convBitsFrom po st (u ++ w) = convBitsFrom po st u ++ convBitsFrom po (u.foldl encNext st) w := by
  induction u generalizing st with
  | nil => rfl
  | cons b u ih => simp [convBitsFrom, ih]

theorem convBits_append (po : PolyOrder) (u w : Bits) :
    convBits po (u ++ w) = convBits po u ++ convBitsFrom po (endState u) w :=
  convBitsFrom_append po 0 u w

theorem convBitsFrom_injective (po : PolyOrder) (st : BitVec 6) {u w : Bits}
    (h : convBitsFrom po st u = convBitsFrom po st w) : u = w := by
  induction u generalizing st w with
  | nil =>
    cases w with
    | nil => rfl
    | cons b w => cases h
  | cons a u ih =>
    cases w with
    | nil => cases h
    | cons b w =>
      simp only [convBitsFrom, List.cons.injEq] at h
      obtain ⟨h1, h2, htail⟩ := h
      obtain rfl := encOutputs_injective po st (Prod.ext h1 h2)
      rw [ih _ htail]

theorem encNext_zero_false : encNext 0 false = 0 := by decide

theorem foldl_encNext_zeros (n : Nat) : (List.replicate n false).foldl encNext 0 = 0 := by
  induction n with
  | zero => rfl
  | succ n ih => rw [List.replicate_succ, List.foldl_cons, encNext_zero_false, ih]

/-- From register 0 zeros are encoded as zeros. -/
theorem convBits_zeros (po : PolyOrder) (n : Nat) :
    convBits po (List.replicate n false) = List.replicate (2 * n) false := by
  induction n with
  | zero => rfl
  | succ n ih =>
    have houtputs : encOutputs po 0 false = (false, false) := by cases po <;> decide
    rw [List.replicate_succ, convBits, convBitsFrom, houtputs, encNext_zero_false, ← convBits, ih, Nat.mul_succ]
    rfl

theorem getMsbD_encNext_zero (st : BitVec 6) (b : Bool) : (encNext st b).getMsbD 0 = b := by
  rw [encNext, BitVec.getMsbD_append]
  simp

theorem getMsbD_encNext_succ (st : BitVec 6) (b : Bool) {i : Nat} (hi : i < 5) :
    (encNext st b).getMsbD (i + 1) = st.getMsbD i := by
  have hback : 1 + (4 - i) = 5 - i := by omega
  have hlow : 4 - i < 5 := by omega
  rw [encNext, BitVec.getMsbD_append]
  simp [BitVec.getMsbD, hback, hi, hlow, Nat.lt_succ_of_lt]

/-- The register holds the last six input bits, the most recent in bit 5, over the zeros it started with (R131). -/
theorem getMsbD_endState (v : Bits) {i : Nat} (hi : i < 6) : (endState v).getMsbD i = v.reverse.getD i false := by
  induction v using List.reverseRecOn generalizing i with
  | nil => simp [endState]
  | append_singleton v b ih =>
    rw [endState_concat, List.reverse_append, List.reverse_singleton, List.singleton_append]
    cases i with
    | zero => rw [getMsbD_encNext_zero, List.getD_cons_zero]
    | succ i => rw [getMsbD_encNext_succ _ _ (by omega), ih (by omega), List.getD_cons_succ]

/-- Six zeros bring the register back to 0 (R134). -/
theorem endState_terminated (u : Bits) (n : Nat) : endState (u ++ List.replicate (6 + n) false) = 0 := by
  refine BitVec.eq_of_getMsbD_eq fun i hi => ?_
  rw [getMsbD_endState _ hi, List.reverse_append, List.reverse_replicate, List.getD_append _ _ _ _ (by simp; omega)]
  simp [List.getD_eq_getElem?_getD]

/-! ### The order of metrics (00_scope.md R14) -/

/-- A metric as an extended natural. -/
def metricValue : Metric → ℕ∞
  | .fin n => n
  | .inf => ⊤

theorem metricLe_iff (a b : Metric) : metricLe a b = true ↔ metricValue a ≤ metricValue b := by
  cases a <;> cases b <;> simp [metricLe, metricValue]

theorem metricValue_metricAdd (a : Metric) (n : Nat) : metricValue (metricAdd a n) = metricValue a + n := by
  cases a with
  | fin m => exact Nat.cast_add m n
  | inf => rfl

theorem metricLe_refl (a : Metric) : metricLe a a = true := (metricLe_iff a a).2 le_rfl

theorem metricLe_trans {a b c : Metric} (hab : metricLe a b = true) (hbc : metricLe b c = true) :
    metricLe a c = true :=
  (metricLe_iff a c).2 (((metricLe_iff a b).1 hab).trans ((metricLe_iff b c).1 hbc))

theorem metricLe_of_not {a b : Metric} (h : ¬ metricLe a b = true) : metricLe b a = true := by
  rw [metricLe_iff, not_le] at h
  exact (metricLe_iff b a).2 h.le

@[simp] theorem metricLe_metricAdd (a b : Metric) (n : Nat) :
    metricLe (metricAdd a n) (metricAdd b n) = metricLe a b := by
  rw [Bool.eq_iff_iff, metricLe_iff, metricLe_iff, metricValue_metricAdd, metricValue_metricAdd]
  exact ENat.add_le_add_iff_right (ENat.natCast_ne_top n)

theorem metricLe_fin_iff (m n : Nat) : metricLe (.fin m) (.fin n) = true ↔ m ≤ n := decide_eq_true_iff

theorem ne_inf_of_metricLe {a b : Metric} (h : metricLe a b = true) (hb : b ≠ .inf) : a ≠ .inf := by
  rintro rfl
  cases b with
  | fin n => cases h
  | inf => exact hb rfl

/-! ### Distances (R135) -/

/-- The number of bits in which the received sequence `r` differs from the encoding of `v`. -/
def pathDistance (po : PolyOrder) (v r : Bits) : Nat := (List.zipWith xor (convBits po v) r).count true

/-- The received sequence of a sequence of pairs. -/
def pairBits (rs : List (Bool × Bool)) : Bits := rs.flatMap fun r => [r.1, r.2]

theorem pairBits_concat (rs : List (Bool × Bool)) (r : Bool × Bool) :
    pairBits (rs ++ [r]) = pairBits rs ++ [r.1, r.2] := by
  simp [pairBits]

@[simp] theorem pairBits_length (rs : List (Bool × Bool)) : (pairBits rs).length = 2 * rs.length := by
  simp [pairBits, Nat.mul_comm]

theorem pairBits_pairUp : ∀ {r : Bits}, r.length % 2 = 0 → pairBits (pairUp r) = r
  | [], _ => rfl
  | [_], h => by cases h
  | a :: b :: r, h => by
    have htail : pairBits (pairUp r) = r := pairBits_pairUp (by rw [List.length_cons, List.length_cons] at h; omega)
    simpa [pairUp, pairBits] using htail

theorem count_true_pair : ∀ a b : Bool, [a, b].count true = a.toNat + b.toNat := by decide

/-- The last pair adds its branch metric. -/
theorem pathDistance_concat (po : PolyOrder) {v : Bits} {rs : List (Bool × Bool)} (h : v.length = rs.length) (b : Bool)
    (r : Bool × Bool) :
    pathDistance po (v ++ [b]) (pairBits (rs ++ [r])) =
      pathDistance po v (pairBits rs) + branchMetric r (encOutputs po (endState v) b) := by
  have hbranch : (List.zipWith xor (convBitsFrom po (endState v) [b]) [r.1, r.2]).count true =
      branchMetric r (encOutputs po (endState v) b) := by
    rw [branchMetric, Bool.xor_comm r.1, Bool.xor_comm r.2]
    exact count_true_pair _ _
  rw [pathDistance, pairBits_concat, convBits_append, List.zipWith_append (by simp [h]), List.count_append, hbranch,
    pathDistance]

/-- Only the encoding itself is at distance 0 from an encoding. -/
theorem eq_of_pathDistance_eq_zero (po : PolyOrder) {v u : Bits} (hlength : v.length = u.length)
    (h : pathDistance po v (convBits po u) = 0) : v = u := by
  refine convBitsFrom_injective po 0 (List.ext_getElem (by simp [hlength]) fun i hi hi' => ?_)
  rw [pathDistance, List.count_eq_zero, List.mem_iff_getElem] at h
  by_contra hne
  exact h ⟨i, by simp at hi hi' ⊢; omega, by simpa [convBits] using hne⟩

theorem pathDistance_self (po : PolyOrder) (u : Bits) : pathDistance po u (convBits po u) = 0 := by
  simp [pathDistance, List.count_eq_zero]

/-! ### Predecessors (R135) -/

/-- The predecessor `p_x` of state `s`. -/
def predState (s : BitVec 6) (x : Bool) : BitVec 6 := BitVec.ofNat 6 (firstPred s.toNat + x.toNat)

theorem toNat_predState (s : BitVec 6) (x : Bool) : (predState s x).toNat = 2 * (s.toNat % 32) + x.toNat := by
  have hx := Bool.toNat_le x
  rw [predState, firstPred, BitVec.toNat_ofNat, Nat.mod_eq_of_lt (by omega)]

theorem toNat_stateBit (s : BitVec 6) : (stateBit s.toNat).toNat = s.toNat / 32 := by
  have hs := s.isLt
  rcases Nat.lt_or_ge s.toNat 32 with h | h
  · simp [stateBit, Nat.div_eq_of_lt h]
  · have hone : s.toNat / 32 = 1 := by omega
    simp [stateBit, hone]

/-- The state entered holds the input bit in bit 5, and below it all but the lowest bit of the state left. -/
theorem encNext_predState (s : BitVec 6) (x : Bool) : encNext (predState s x) (stateBit s.toNat) = s := by
  have hx := Bool.toNat_le x
  refine BitVec.eq_of_toNat_eq ?_
  rw [toNat_encNext, toNat_predState, toNat_stateBit]
  omega

theorem stateBit_encNext (p : BitVec 6) (b : Bool) : stateBit (encNext p b).toNat = b := by
  have hp := p.isLt
  have hb := Bool.toNat_le b
  have hbit : (32 * b.toNat + p.toNat / 2) / 32 % 2 = b.toNat := by omega
  rw [stateBit, toNat_encNext, hbit]
  cases b <;> rfl

theorem exists_eq_predState_encNext (p : BitVec 6) (b : Bool) : ∃ x, p = predState (encNext p b) x := by
  refine ⟨p.toNat.testBit 0, BitVec.eq_of_toNat_eq ?_⟩
  have hp := p.isLt
  rw [toNat_predState, toNat_encNext, Nat.toNat_testBit]
  omega

theorem getMsbD_predState_five (s : BitVec 6) (x : Bool) : (predState s x).getMsbD 5 = x := by
  rw [BitVec.getMsbD_eq_getLsbD, BitVec.getLsbD, toNat_predState]
  cases x <;> simp

theorem getMsbD_predState_of_lt (s : BitVec 6) (x : Bool) {i : Nat} (hi : i < 5) :
    (predState s x).getMsbD i = s.getMsbD (i + 1) := by
  rw [← getMsbD_encNext_succ (predState s x) (stateBit s.toNat) hi, encNext_predState]

/-! ### Add-compare-select (R135) -/

/-- The metric `PM[s]`. -/
def metricAt (pm : List Metric) (s : BitVec 6) : Metric := pm.getD s.toNat .inf

/-- The metric `M_x` of the way into `s` from its predecessor `p_x`. -/
def candidate (po : PolyOrder) (pm : List Metric) (r : Bool × Bool) (s : BitVec 6) (x : Bool) : Metric :=
  metricAdd (metricAt pm (predState s x)) (branchMetric r (encOutputs po (predState s x) (stateBit s.toNat)))

theorem metricAt_predState_ne_inf {po : PolyOrder} {pm : List Metric} {r : Bool × Bool} {s : BitVec 6} {x : Bool}
    (h : candidate po pm r s x ≠ .inf) : metricAt pm (predState s x) ≠ .inf := by
  intro hpred
  exact h (by rw [candidate, hpred]; rfl)

/-- `p_x` is the predecessor kept in the way into `s`: its metric is the lower one, and of two like metrics that of the
lower predecessor. -/
def Keeps (po : PolyOrder) (pm : List Metric) (r : Bool × Bool) (s : BitVec 6) (x : Bool) : Prop :=
  ∀ y, metricLe (candidate po pm r s x) (candidate po pm r s y) = true ∧
    (metricLe (candidate po pm r s y) (candidate po pm r s x) = true → x ≤ y)

theorem pairUp_getElem? {α : Type} : ∀ (l : List α) (i : Nat) (h : 2 * i + 1 < l.length),
    (pairUp l)[i]? = some (l[2 * i], l[2 * i + 1])
  | [], i, h | [_], i, h => by simp at h
  | a :: b :: l, 0, h => rfl
  | a :: b :: l, i + 1, h => by
    have h' : 2 * i + 1 < l.length := by simp at h; omega
    exact pairUp_getElem? l i h'

/-- The states are read two by two: the pair number `s AND 31` holds the metrics of the predecessors of `s` (log 10). -/
theorem pairs_at_state {pm : List Metric} (hpm : pm.length = 64) (s : BitVec 6) :
    (pairUp pm ++ pairUp pm)[s.toNat]? = some (metricAt pm (predState s false), metricAt pm (predState s true)) := by
  have hs := s.isLt
  have hhalf : (pairUp pm).length = 32 := by rw [pairUp_length, hpm]
  have hpair : (pairUp pm ++ pairUp pm)[s.toNat]? = (pairUp pm)[s.toNat % 32]? := by
    rcases Nat.lt_or_ge s.toNat 32 with h | h
    · rw [List.getElem?_append_left (by omega), Nat.mod_eq_of_lt h]
    · rw [List.getElem?_append_right (by omega), hhalf, Nat.mod_eq_sub_mod h, Nat.mod_eq_of_lt (by omega)]
  rw [hpair, pairUp_getElem? pm _ (by omega), metricAt, metricAt, toNat_predState, toNat_predState,
    List.getD_eq_getElem _ _ (by simp; omega), List.getD_eq_getElem _ _ (by simp; omega)]
  rfl

theorem trellisRows_at_state (po : PolyOrder) (s : BitVec 6) :
    (trellisRows po)[s.toNat]? = some (firstPred s.toNat, encOutputs po (predState s false) (stateBit s.toNat),
      encOutputs po (predState s true) (stateBit s.toNat)) := by
  rw [trellisRows, List.getElem?_map, List.getElem?_range s.isLt]
  rfl

/-- The survivor into a state comes from the predecessor that is kept, with its metric. -/
theorem acsStep_at_state {pm : List Metric} (hpm : pm.length = 64) (po : PolyOrder) (r : Bool × Bool) (s : BitVec 6) :
    ∃ x, (acsStep po pm r)[s.toNat]? = some (candidate po pm r s x, (predState s x).toNat) ∧ Keeps po pm r s x := by
  have hstep : (acsStep po pm r)[s.toNat]? = some
      (if metricLe (candidate po pm r s false) (candidate po pm r s true)
        then (candidate po pm r s false, firstPred s.toNat)
        else (candidate po pm r s true, firstPred s.toNat + 1)) := by
    rw [acsStep, List.getElem?_zipWith_eq_some.2 ⟨_, _, pairs_at_state hpm s, trellisRows_at_state po s, rfl⟩]
    rfl
  rw [hstep]
  split
  next h =>
    refine ⟨false, by rw [toNat_predState]; rfl, fun y => ⟨?_, fun _ => Bool.false_le y⟩⟩
    cases y
    · exact metricLe_refl _
    · exact h
  next h =>
    refine ⟨true, by rw [toNat_predState]; rfl, fun y => ?_⟩
    cases y
    · exact ⟨metricLe_of_not h, fun h' => absurd h' h⟩
    · exact ⟨metricLe_refl _, fun _ => le_rfl⟩

/-! ### The survivor paths -/

theorem acsRun_concat (po : PolyOrder) (pm : List Metric) (rs : List (Bool × Bool)) (r : Bool × Bool) :
    acsRun po pm (rs ++ [r]) =
      ((acsStep po (acsRun po pm rs).1 r).map (·.1),
        (acsRun po pm rs).2 ++ [(acsStep po (acsRun po pm rs).1 r).map (·.2)]) := by
  induction rs generalizing pm with
  | nil => rfl
  | cons r' rs ih => simp [acsRun, ih]

theorem acsRun_length (po : PolyOrder) (rs : List (Bool × Bool)) {pm : List Metric} (hpm : pm.length = 64) :
    (acsRun po pm rs).1.length = 64 := by
  induction rs generalizing pm with
  | nil => exact hpm
  | cons r rs ih => exact ih (by rw [List.length_map, acsStep_length hpm])

/-- The path metrics `PM` after the pairs `rs`. -/
def finalMetrics (po : PolyOrder) (rs : List (Bool × Bool)) : List Metric := (acsRun po initialMetrics rs).1

theorem finalMetrics_length (po : PolyOrder) (rs : List (Bool × Bool)) : (finalMetrics po rs).length = 64 :=
  acsRun_length po rs initialMetrics_length

/-- The input of the survivor path that ends in state `s`. -/
def survivor (po : PolyOrder) (rs : List (Bool × Bool)) (s : BitVec 6) : Bits :=
  (traceback (acsRun po initialMetrics rs).2.reverse s.toNat).reverse

/-- One more pair: each survivor is that of the predecessor kept, one bit longer. -/
theorem survivor_concat (po : PolyOrder) (rs : List (Bool × Bool)) (r : Bool × Bool) (s : BitVec 6) :
    ∃ x, metricAt (finalMetrics po (rs ++ [r])) s = candidate po (finalMetrics po rs) r s x ∧
      survivor po (rs ++ [r]) s = survivor po rs (predState s x) ++ [stateBit s.toNat] ∧
      Keeps po (finalMetrics po rs) r s x := by
  obtain ⟨x, hstep, hkeeps⟩ := acsStep_at_state (finalMetrics_length po rs) po r s
  refine ⟨x, ?_, ?_, hkeeps⟩
  · rw [metricAt, finalMetrics, acsRun_concat, ← finalMetrics, List.getD_eq_getElem?_getD, List.getElem?_map, hstep]
    rfl
  · rw [survivor, acsRun_concat, ← finalMetrics, List.reverse_append, List.reverse_singleton, List.singleton_append,
      traceback, List.reverse_cons, List.getD_eq_getElem?_getD, List.getElem?_map, hstep]
    rfl

/-- The last bit in which `v` and `w` differ is 0 in `v`: they last part where `v` comes from the lower predecessor. -/
def PartsLower (v w : Bits) : Prop :=
  ∃ d, v.getD d true = false ∧ w.getD d false = true ∧ v.drop (d + 1) = w.drop (d + 1)

theorem lt_length_of_getD_eq {v : Bits} {d : Nat} {b : Bool} (h : v.getD d (!b) = b) : d < v.length := by
  by_contra hlt
  rw [List.getD_eq_default _ _ (Nat.not_lt.1 hlt)] at h
  cases b <;> cases h

theorem PartsLower.concat {v w : Bits} (h : PartsLower v w) (b : Bool) : PartsLower (v ++ [b]) (w ++ [b]) := by
  obtain ⟨d, hv, hw, hdrop⟩ := h
  have hdv := lt_length_of_getD_eq (b := false) hv
  have hdw := lt_length_of_getD_eq (b := true) hw
  refine ⟨d, ?_, ?_, ?_⟩
  · rw [List.getD_append _ _ _ _ hdv, hv]
  · rw [List.getD_append _ _ _ _ hdw, hw]
  · rw [List.drop_append_of_le_length hdv, List.drop_append_of_le_length hdw, hdrop]

theorem getD_reverse_bits {v : Bits} {i j : Nat} (h : i + j + 1 = v.length) (b c : Bool) :
    v.reverse.getD i b = v.getD j c := by
  rw [List.getD_eq_getElem _ _ (by simp; omega), List.getD_eq_getElem _ _ (by omega), List.getElem_reverse]
  congr 1
  omega

/-- Paths of one length that end in the two predecessors of one state part six bits before their end. -/
theorem partsLower_of_endState {v w : Bits} (hlength : v.length = w.length) {s : BitVec 6}
    (hv : endState v = predState s false) (hw : endState w = predState s true) : PartsLower v w := by
  have hbit (i : Nat) (hi : i < 5) : v.reverse.getD i false = w.reverse.getD i false := by
    rw [← getMsbD_endState v (by omega), ← getMsbD_endState w (by omega), hv, hw, getMsbD_predState_of_lt s _ hi,
      getMsbD_predState_of_lt s _ hi]
  have hvbit : v.reverse.getD 5 false = false := by
    rw [← getMsbD_endState v (by decide), hv, getMsbD_predState_five]
  have hwbit : w.reverse.getD 5 false = true := by
    rw [← getMsbD_endState w (by decide), hw, getMsbD_predState_five]
  have hlong : 5 < w.length := by simpa using lt_length_of_getD_eq (b := true) hwbit
  refine ⟨w.length - 6, ?_, ?_, List.ext_getElem (by simp [hlength]) fun j hj hj' => ?_⟩
  · rw [← getD_reverse_bits (i := 5) (by omega) false, hvbit]
  · rw [← getD_reverse_bits (i := 5) (by omega) false, hwbit]
  · rw [List.length_drop] at hj hj'
    rw [List.getElem_drop, List.getElem_drop, ← List.getD_eq_getElem _ false, ← List.getD_eq_getElem _ false]
    exact (getD_reverse_bits (by omega) _ _).symm.trans
      ((hbit (4 - j) (by omega)).trans (getD_reverse_bits (by omega) _ _))

/-! ### Every survivor is a nearest path into its state -/

/-- `v` is the survivor of metric `m` of the paths into `s`: no path is nearer to the received pairs than `m`; one that
is as near is `v` or parts from it towards a higher predecessor; and `v` is such a path unless `m` is `INF`. -/
structure IsSurvivor (po : PolyOrder) (rs : List (Bool × Bool)) (s : BitVec 6) (m : Metric) (v : Bits) : Prop where
  length : v.length = rs.length
  reached : m ≠ .inf → endState v = s ∧ m = .fin (pathDistance po v (pairBits rs))
  least : ∀ w, w.length = rs.length → endState w = s →
    metricLe m (.fin (pathDistance po w (pairBits rs))) = true ∧
      (metricLe (.fin (pathDistance po w (pairBits rs))) m = true → w = v ∨ PartsLower v w)

theorem metricAt_initialMetrics (s : BitVec 6) :
    metricAt initialMetrics s = if s = 0 then .fin 0 else .inf := by
  revert s
  decide

theorem isSurvivor_nil (po : PolyOrder) (s : BitVec 6) :
    IsSurvivor po [] s (metricAt (finalMetrics po []) s) (survivor po [] s) where
  length := rfl
  reached h := by
    rw [finalMetrics, acsRun, metricAt_initialMetrics] at h ⊢
    split at h
    next hs => exact ⟨hs.symm, if_pos hs⟩
    · exact absurd rfl h
  least w hlength hend := by
    obtain rfl := List.length_eq_zero_iff.1 hlength
    obtain rfl : 0 = s := hend
    exact ⟨by rw [finalMetrics, acsRun, metricAt_initialMetrics]; rfl, fun _ => .inl rfl⟩

/-- A path into `s` is a path into one of the predecessors of `s`, and the bit that `s` holds in bit 5. -/
theorem exists_path_to_predState {w : Bits} {n : Nat} (hlength : w.length = n + 1) {s : BitVec 6}
    (hend : endState w = s) :
    ∃ w' y, w = w' ++ [stateBit s.toNat] ∧ w'.length = n ∧ endState w' = predState s y := by
  obtain ⟨w', b, rfl⟩ := List.eq_nil_or_concat' w |>.resolve_left (by rintro rfl; cases hlength)
  rw [endState_concat] at hend
  subst hend
  obtain ⟨y, hy⟩ := exists_eq_predState_encNext (endState w') b
  exact ⟨w', y, by rw [stateBit_encNext], by simpa using hlength, hy⟩

/-- A path `w` into `p_y`, led on into `s`, has the metric `M_y` that the distance of `w` as `PM[p_y]` would give. -/
theorem fin_pathDistance_concat (po : PolyOrder) {w : Bits} {rs : List (Bool × Bool)} (hlength : w.length = rs.length)
    {s : BitVec 6} {y : Bool} (hend : endState w = predState s y) (r : Bool × Bool) :
    Metric.fin (pathDistance po (w ++ [stateBit s.toNat]) (pairBits (rs ++ [r]))) =
      metricAdd (.fin (pathDistance po w (pairBits rs)))
        (branchMetric r (encOutputs po (predState s y) (stateBit s.toNat))) := by
  rw [pathDistance_concat po hlength, hend]
  rfl

theorem isSurvivor_concat {po : PolyOrder} {rs : List (Bool × Bool)}
    (ih : ∀ p, IsSurvivor po rs p (metricAt (finalMetrics po rs) p) (survivor po rs p)) (r : Bool × Bool) {s : BitVec 6}
    {x : Bool} (hkeeps : Keeps po (finalMetrics po rs) r s x) :
    IsSurvivor po (rs ++ [r]) s (candidate po (finalMetrics po rs) r s x)
      (survivor po rs (predState s x) ++ [stateBit s.toNat]) where
  length := by rw [List.length_append, (ih _).length, List.length_append]; rfl
  reached hfin := by
    obtain ⟨hend, hmetric⟩ := (ih _).reached (metricAt_predState_ne_inf hfin)
    rw [endState_concat, hend, fin_pathDistance_concat po (ih _).length hend, candidate, ← hmetric]
    exact ⟨encNext_predState s x, rfl⟩
  least w hlength hend := by
    obtain ⟨w, y, rfl, hlength, hend⟩ := exists_path_to_predState (by simpa using hlength) hend
    obtain ⟨hleast, htie⟩ := (ih (predState s y)).least w hlength hend
    obtain ⟨hmin, hlower⟩ := hkeeps y
    rw [fin_pathDistance_concat po hlength hend]
    have hway : metricLe (candidate po (finalMetrics po rs) r s y) (metricAdd (.fin (pathDistance po w (pairBits rs)))
        (branchMetric r (encOutputs po (predState s y) (stateBit s.toNat)))) = true :=
      (metricLe_metricAdd _ _ _).trans hleast
    refine ⟨metricLe_trans hmin hway, fun hnear => ?_⟩
    rcases eq_or_ne x y with rfl | hxy
    · rw [candidate, metricLe_metricAdd] at hnear
      rcases htie hnear with rfl | hparts
      · exact .inl rfl
      · exact .inr (hparts.concat _)
    · have hle : x ≤ y := hlower (metricLe_trans hway hnear)
      obtain ⟨rfl, rfl⟩ := Bool.lt_iff.1 (lt_of_le_of_ne hle hxy)
      have hfin : candidate po (finalMetrics po rs) r s false ≠ .inf :=
        ne_inf_of_metricLe (metricLe_trans hmin hway) nofun
      obtain ⟨hkept, -⟩ := (ih _).reached (metricAt_predState_ne_inf hfin)
      exact .inr ((partsLower_of_endState ((ih _).length.trans hlength.symm) hkept hend).concat _)

theorem survivor_isSurvivor (po : PolyOrder) (rs : List (Bool × Bool)) (s : BitVec 6) :
    IsSurvivor po rs s (metricAt (finalMetrics po rs) s) (survivor po rs s) := by
  induction rs using List.reverseRecOn generalizing s with
  | nil => exact isSurvivor_nil po s
  | append_singleton rs r ih =>
    obtain ⟨x, hmetric, hpath, hkeeps⟩ := survivor_concat po rs r s
    rw [hmetric, hpath]
    exact isSurvivor_concat ih r hkeeps

/-! ### The traceback (R136) -/

/-- State `b` is the lowest of minimal metric among the states `s` below `k`. -/
def LowestBelow (pm : List Metric) (k b : Nat) : Prop :=
  b < k ∧ ∀ i < k, metricLe (pm.getD b .inf) (pm.getD i .inf) = true ∧
    (metricLe (pm.getD i .inf) (pm.getD b .inf) = true → b ≤ i)

theorem LowestBelow.keep {pm : List Metric} {k b : Nat} (h : LowestBelow pm k b)
    (hle : metricLe (pm.getD b .inf) (pm.getD k .inf) = true) : LowestBelow pm (k + 1) b := by
  obtain ⟨hb, hmin⟩ := h
  refine ⟨Nat.lt_succ_of_lt hb, fun i hi => ?_⟩
  rcases Nat.lt_succ_iff_lt_or_eq.1 hi with hi | rfl
  · exact hmin i hi
  · exact ⟨hle, fun _ => hb.le⟩

theorem LowestBelow.replace {pm : List Metric} {k b : Nat} (h : LowestBelow pm k b)
    (hlt : ¬ metricLe (pm.getD b .inf) (pm.getD k .inf) = true) : LowestBelow pm (k + 1) k := by
  obtain ⟨hb, hmin⟩ := h
  refine ⟨Nat.lt_succ_self k, fun i hi => ?_⟩
  rcases Nat.lt_succ_iff_lt_or_eq.1 hi with hi | rfl
  · refine ⟨metricLe_trans (metricLe_of_not hlt) (hmin i hi).1, fun hle => ?_⟩
    exact absurd (metricLe_trans (hmin i hi).1 hle) hlt
  · exact ⟨metricLe_refl _, fun _ => le_rfl⟩

theorem lowestBelow_lowestMinFrom {pm : List Metric} {k b : Nat} (l : List Metric) (hl : l = pm.drop k)
    (h : LowestBelow pm k b) : LowestBelow pm (k + l.length) (lowestMinFrom b (pm.getD b .inf) k l) := by
  induction l generalizing k b with
  | nil => exact h
  | cons n l ih =>
    have hn : pm.getD k .inf = n := by
      rw [List.getD_eq_getElem?_getD, ← List.head?_drop, ← hl]
      rfl
    have hdrop : l = pm.drop (k + 1) := by rw [← List.tail_drop, ← hl]; rfl
    rw [lowestMinFrom, List.length_cons, Nat.add_comm l.length, ← Nat.add_assoc, ← hn]
    split
    next hle => exact ih hdrop (h.keep hle)
    next hlt => exact ih hdrop (h.replace hlt)

theorem lowestBelow_lowestMin {pm : List Metric} (hpm : pm ≠ []) : LowestBelow pm pm.length (lowestMin pm) := by
  cases pm with
  | nil => exact absurd rfl hpm
  | cons m l =>
    have hfirst : LowestBelow (m :: l) 1 0 :=
      ⟨Nat.one_pos, fun i hi => by
        obtain rfl := Nat.lt_one_iff.1 hi
        exact ⟨metricLe_refl _, fun _ => le_rfl⟩⟩
    rw [List.length_cons, Nat.add_comm]
    exact lowestBelow_lowestMinFrom l rfl hfirst

/-- The traceback may start in `s`: the lowest state of minimal metric, among all states or, under `ZERO`, among the
state 0 alone. -/
def StartsIn (tb : TbStart) (pm : List Metric) (s : BitVec 6) : Prop :=
  (tb = .zero → s = 0) ∧ ∀ s', (tb = .zero → s' = 0) → metricLe (metricAt pm s) (metricAt pm s') = true ∧
    (metricLe (metricAt pm s') (metricAt pm s) = true → s.toNat ≤ s'.toNat)

theorem exists_startsIn_tracebackStart (tb : TbStart) {pm : List Metric} (hpm : pm.length = 64) :
    ∃ s : BitVec 6, tracebackStart tb pm = s.toNat ∧ StartsIn tb pm s := by
  cases tb with
  | zero =>
    refine ⟨0, rfl, fun _ => rfl, fun s' hs' => ?_⟩
    obtain rfl := hs' rfl
    exact ⟨metricLe_refl _, fun _ => le_rfl⟩
  | minMetric =>
    obtain ⟨hlt, hmin⟩ := lowestBelow_lowestMin (pm := pm) (by rintro rfl; cases hpm)
    rw [hpm] at hlt hmin
    have hs : (BitVec.ofNat 6 (lowestMin pm)).toNat = lowestMin pm := Nat.mod_eq_of_lt hlt
    refine ⟨BitVec.ofNat 6 (lowestMin pm), hs.symm, nofun, fun s' _ => ?_⟩
    rw [metricAt, metricAt, hs]
    exact hmin _ s'.isLt

/-- The inputs of `t` bits among which the decoder chooses: under `ZERO` those that end in state 0 (R136). -/
def Admitted (tb : TbStart) (t : Nat) (v : Bits) : Prop := v.length = t ∧ (tb = .zero → endState v = 0)

/-- `v` is what the decoder chooses among the admitted inputs: the nearest one; of two at the same distance the one that
ends in the lower state; of two that end in the same state the one of the lower predecessor where they last part. -/
def Chosen (po : PolyOrder) (tb : TbStart) (t : Nat) (r v : Bits) : Prop :=
  Admitted tb t v ∧ ∀ w, Admitted tb t w → pathDistance po v r ≤ pathDistance po w r ∧
    (pathDistance po w r = pathDistance po v r → (endState v).toNat ≤ (endState w).toNat ∧
      (endState w = endState v → w ≠ v → PartsLower v w))

/-- The input of zeros ends in state 0. -/
theorem metricAt_zero_ne_inf (po : PolyOrder) (rs : List (Bool × Bool)) : metricAt (finalMetrics po rs) 0 ≠ .inf :=
  ne_inf_of_metricLe ((survivor_isSurvivor po rs 0).least (List.replicate rs.length false) List.length_replicate
    (foldl_encNext_zeros _)).1 nofun

theorem survivor_chosen {po : PolyOrder} {tb : TbStart} {rs : List (Bool × Bool)} {s : BitVec 6}
    (hs : StartsIn tb (finalMetrics po rs) s) : Chosen po tb rs.length (pairBits rs) (survivor po rs s) := by
  obtain ⟨hzero, hmin⟩ := hs
  have hsurvivor := survivor_isSurvivor po rs
  have hfin : metricAt (finalMetrics po rs) s ≠ .inf :=
    ne_inf_of_metricLe (hmin 0 fun _ => rfl).1 (metricAt_zero_ne_inf po rs)
  obtain ⟨hend, hmetric⟩ := (hsurvivor s).reached hfin
  refine ⟨⟨(hsurvivor s).length, fun h => hend.trans (hzero h)⟩, fun w ⟨hw, hwzero⟩ => ?_⟩
  obtain ⟨hleast, -⟩ := (hsurvivor (endState w)).least w hw rfl
  obtain ⟨hmin, hlower⟩ := hmin (endState w) hwzero
  have hnearest := metricLe_trans hmin hleast
  rw [hmetric, metricLe_fin_iff] at hnearest
  refine ⟨hnearest, fun htie => ⟨?_, fun hsame hne => ?_⟩⟩
  · rw [hend]
    exact hlower (by rwa [hmetric, ← htie])
  · obtain ⟨-, hparts⟩ := (hsurvivor s).least w hw (hsame.trans hend)
    rw [htie, ← hmetric] at hparts
    exact (hparts (metricLe_refl _)).resolve_left hne

theorem viterbi_eq_take_survivor {po : PolyOrder} {tb : TbStart} {r : Bits} {s : BitVec 6}
    (hs : tracebackStart tb (finalMetrics po (pairUp r)) = s.toNat) :
    viterbi po tb r = (survivor po (pairUp r) s).take (r.length / 2 - 6) := by
  rw [survivor, ← hs, ← pairUp_length]
  rfl

theorem viterbi_chooses (po : PolyOrder) (tb : TbStart) {t : Nat} {r : Bits} (hr : r.length = 2 * t) :
    ∃ v, Chosen po tb t r v ∧ viterbi po tb r = v.take (t - 6) := by
  obtain ⟨s, hstart, hs⟩ := exists_startsIn_tracebackStart tb (finalMetrics_length po (pairUp r))
  have hhalf : r.length / 2 = t := by omega
  have hchosen := survivor_chosen hs
  rw [pairUp_length, hhalf, pairBits_pairUp (by omega)] at hchosen
  exact ⟨_, hchosen, hhalf ▸ viterbi_eq_take_survivor hstart⟩

/-- Without channel errors the input is the one path at distance 0 (R171). -/
theorem viterbi_convBits_terminated (po : PolyOrder) (tb : TbStart) (u : Bits) (n : Nat) :
    viterbi po tb (convBits po (u ++ List.replicate (6 + n) false)) = u ++ List.replicate n false := by
  set x := u ++ List.replicate (6 + n) false with hx
  have hxlen : x.length = u.length + n + 6 := by simp [hx]; omega
  obtain ⟨v, ⟨⟨hlength, -⟩, hleast⟩, hv⟩ := viterbi_chooses po tb (convBits_length po x)
  have hzero : pathDistance po v (convBits po x) = 0 :=
    Nat.le_zero.1 ((hleast x ⟨rfl, fun _ => endState_terminated u n⟩).1.trans_eq (pathDistance_self po x))
  obtain rfl : v = x := eq_of_pathDistance_eq_zero po hlength hzero
  rw [hv, hxlen, hx, Nat.add_sub_cancel, List.take_append, List.take_of_length_le (by omega)]
  simp

/-- Settles O33: the chosen survivor is nearest; the noise-free case follows, since an encoding has one input. -/
theorem viterbiInvertsTheTerminatedEncoder : Obligations.ViterbiInvertsTheTerminatedEncoder := by
  refine ⟨viterbi_convBits_terminated, fun po tb t r hr => ?_⟩
  obtain ⟨v, ⟨hadmitted, hchosen⟩, hv⟩ := viterbi_chooses po tb hr
  exact ⟨v, hadmitted, hv, hchosen⟩

/-! ### CONV_INIT, CONV_ENC and VIT_DEC (R130, R133, R134, R137) -/

/-- Settles O28: the lookup of the code has the three outcomes. -/
theorem convInitWritesTheCodecRegister : Obligations.ConvInitWritesTheCodecRegister := by
  intro s ec hfits
  refine ⟨fun hec => ?unassigned, fun c hec hother => ?noCodec, fun hec => ?half⟩ <;>
    simp only [exec, execConvInit, runCommand_of_fits hfits, hec]
  case half =>
    rw [finish_nil]
    rfl
  case unassigned | noCodec => rfl

/-- Settles O29: both commands look at `INIT` before anything else of their own. -/
theorem uninitialisedCodecAnswersTheSentinel : Obligations.UninitialisedCodecAnswersTheSentinel := by
  intro s hfits (hinit : codecInit s.codec = false)
  constructor <;>
  · simp only [exec, execConvEnc, execVitDec, runCommand_of_fits hfits, hinit, Bool.not_false, if_true, reply_nil]
    rfl

section Commands

variable {s : State} (hfits : ioFits s.params s.input.length = true) (hinit : s.codec.getLsbD 6 = true)

/-- The encoding that CONV_ENC answers (R133). -/
def encodedInput (s : State) : Bits :=
  convBits s.params.polyOrder (bits8 s.input ++ List.replicate (if s.params.convTail = .zero6 then 6 else 0) false)

theorem encodedInput_length (s : State) :
    (encodedInput s).length = 16 * s.input.length + 2 * (if s.params.convTail = .zero6 then 6 else 0) := by
  rw [encodedInput, convBits_length, List.length_append, bits8_length, List.length_replicate]
  omega

theorem convTailBits_eq (c : ConvTail) : convTailBits c = List.replicate (if c = .zero6 then 6 else 0) false := by
  cases c <;> rfl

include hfits hinit

theorem exec_convEnc : exec .convEnc s =
    .next (s.reply (countWord (encodedInput s).length) 0 (pack8 (encodedInput s))) := by
  have hinit : codecInit s.codec = true := hinit
  simp only [exec, execConvEnc, runCommand_of_fits hfits, hinit, Bool.not_true, Bool.false_eq_true, if_false,
    convTailBits_eq]
  rfl

/-- The decoded bits are fewer than those in `IN`, so `OUT` fits. -/
theorem exec_vitDec :
    let u := viterbi s.params.polyOrder s.params.tbStart (bits8 s.input)
    exec .vitDec s = .next (s.leaveScratch.complete 0 (countWord u.length) (pack8 u)) := by
  intro u
  have hinit : codecInit s.codec = true := hinit
  have hout : ioFits s.params (pack8 u).length = true := by
    refine ioFits_mono ?_ hfits
    rw [pack8_length, ceilDiv_le_iff (by decide), viterbi_length, bits8_length]
    omega
  rw [← finish_of_fits hout]
  simp only [exec, execVitDec, runCommand_of_fits hfits, hinit, Bool.not_true, Bool.false_eq_true, if_false]
  rfl

end Commands

/-- Settles O31: the encoding has two bits for each input bit, and CONV_ENC ends as its octets fit or not. -/
theorem convEncCompletes : Obligations.ConvEncCompletes := by
  intro s hfits hinit tail v n
  have hlength : (encodedInput s).length = n := encodedInput_length s
  have hoctets : (pack8 (encodedInput s)).length = (n + 7) / 8 := by rw [pack8_length, hlength]; rfl
  refine ⟨hlength, hoctets, fun hout => ?fits, fun hout => ?tooLong⟩
  case fits =>
    rw [exec_convEnc hfits hinit, reply_of_fits (by rwa [hoctets]), hlength]
    rfl
  case tooLong =>
    rw [exec_convEnc hfits hinit, State.reply, finish_of_not_fits (by rwa [hoctets])]
    rfl

/-- Settles O32: four pairs for each octet, less the last six bits. -/
theorem vitDecCompletes : Obligations.VitDecCompletes := by
  intro s hfits hinit u k
  have hlength : u.length = k := by
    rw [viterbi_length, bits8_length]
    omega
  refine ⟨hlength, s.leaveScratch.scratch, s.leaveScratch.freeIx, ?_⟩
  rw [exec_vitDec hfits hinit, ← hlength]
  rfl

/-! ### The round trip (R138) -/

/-- Reading packed bits back adds the bits that fill the last octet (00_scope.md R13). -/
theorem bits8_pack8 (s : Bits) : bits8 (pack8 s) = s ++ List.replicate (8 * ceilDiv s.length 8 - s.length) false := by
  have hle : s.length ≤ 8 * ceilDiv s.length 8 := (ceilDiv_le_iff (by decide)).1 le_rfl
  refine List.ext_getElem (by simp; omega) fun i hi hi' => ?_
  rw [← List.getD_eq_getElem _ false hi, ← List.getD_eq_getElem _ false hi', bits8, getD_unpackForm (by decide), pack8,
    getLsbD_packForm (by decide) (Nat.mod_lt i (by decide)), Nat.div_add_mod']
  rcases Nat.lt_or_ge i s.length with h | h
  · rw [List.getD_append _ _ _ _ h]
  · rw [List.getD_eq_default _ _ h, List.getD_append_right _ _ _ _ h,
      List.getD_eq_getElem?_getD (l := List.replicate _ _), List.getElem?_getD_replicate_default_eq]

theorem pack8_bits8 (x : Bytes) : pack8 (bits8 x) = x :=
  packForm_unpackForm (by decide) fun o _ => o.isLt

/-- Bits that, filled up with less than an octet of zeros, are those of `x` pack to `x`. -/
theorem pack8_eq_of_bits8 {x : Bytes} {s : Bits} {k : Nat} (hk : k < 8) (h : bits8 x = s ++ List.replicate k false) :
    pack8 s = x := by
  have hlength : 8 * x.length = s.length + k := by simpa using congrArg List.length h
  have hfill : 8 * ceilDiv s.length 8 - s.length = k := by unfold ceilDiv; omega
  rw [← pack8_bits8 (pack8 s), bits8_pack8, hfill, ← h, pack8_bits8]

theorem bits8_append (x y : Bytes) : bits8 (x ++ y) = bits8 x ++ bits8 y := List.flatMap_append

/-- The fill of the last octet of a terminated encoding is the encoding of two more zeros (R138). -/
theorem bits8_pack8_convBits_terminated (po : PolyOrder) (x : Bytes) :
    bits8 (pack8 (convBits po (bits8 x ++ List.replicate 6 false))) =
      convBits po (bits8 x ++ List.replicate (6 + 2) false) := by
  have hfill : 8 * ceilDiv (convBits po (bits8 x ++ List.replicate 6 false)).length 8 -
      (convBits po (bits8 x ++ List.replicate 6 false)).length = 2 * 2 := by
    simp [ceilDiv]
    omega
  rw [bits8_pack8, hfill, List.replicate_add, ← List.append_assoc, convBits_append po (_ ++ _),
    endState_terminated (bits8 x) 0, ← convBits_zeros po 2]
  rfl

/-- Settles O34: VIT_DEC reads a terminated encoding, with two zeros behind the tail. -/
theorem standAloneCodecRoundTrip : Obligations.StandAloneCodecRoundTrip := by
  intro s hout hinit htail _
  have hfits : ioFits s.params s.input.length = true := ioFits_mono (by omega) hout
  have hv : encodedInput s = convBits s.params.polyOrder (bits8 s.input ++ List.replicate 6 false) := by
    rw [encodedInput, if_pos htail]
  have hlength : (pack8 (encodedInput s)).length = 2 * s.input.length + 2 := by
    rw [pack8_length, encodedInput_length, if_pos htail, ceilDiv]
    omega
  rw [← hlength] at hout
  have hdecoded : viterbi s.params.polyOrder s.params.tbStart (bits8 (pack8 (encodedInput s))) =
      bits8 s.input ++ List.replicate 2 false := by
    rw [hv, bits8_pack8_convBits_terminated, viterbi_convBits_terminated]
  have hoctets : pack8 (bits8 s.input ++ List.replicate 2 false) = s.input ++ [0] :=
    pack8_eq_of_bits8 (k := 6) (by decide) (by rw [bits8_append, List.append_assoc]; rfl)
  have hencoded : exec .convEnc s =
      .next (s.complete (countWord (encodedInput s).length) 0 (pack8 (encodedInput s))) := by
    rw [exec_convEnc hfits hinit, reply_of_fits hout]
  refine ⟨_, _, hencoded, rfl, exec_vitDec hout hinit, rfl, rfl, ?_, fun hcount => ?_⟩
  · exact (congrArg pack8 hdecoded).trans hoctets
  · refine (congrArg (fun u => countWord u.length) hdecoded).trans ?_
    rw [List.length_append, bits8_length, List.length_replicate, countWord_of_fits hcount]

end Sys2Proof.Machine

/-!
PROOFS. 44_mpdu_header.md: the header's fields and codewords (R150 to R152), the commands HDR_ENC and HDR_DEC (R153 to
R155), their round trip and what bit errors do to it (R156), the drop of a corrupt frame by RX_FRAME (45_mpdu_framer.md
R172), and the packings of `RES0` and `RES1` (30_encoding.md R65).

Both directions rest on the header being three words of 24 bits: what is sent are the codewords of the three groups of
the fields (`headerOctets_eq`), and what is received is decoded word by word (`headerDecode_words`). So errors are a
matter of one codeword at a time, which 42_golay.md R116 settles.
-/

namespace Sys2Proof.Machine

/-! ### The information word and its three groups (R150, R151) -/

/-- Group 0: `rf`, `ec` and the upper bits of `cfi`. -/
def headerGroup0 (h : HeaderFields) : BitVec 12 := h.rf ++ h.ec ++ h.cfi.extractLsb' 4 3

/-- Group 1: the lower bits of `cfi` and the upper bits of `upl`. -/
def headerGroup1 (h : HeaderFields) : BitVec 12 := h.cfi.extractLsb' 0 4 ++ h.upl.extractLsb' 4 8

/-- Group 2: the lower bits of `upl` and `upfi`. -/
def headerGroup2 (h : HeaderFields) : BitVec 12 := h.upl.extractLsb' 0 4 ++ h.upfi

/-- The two cuts through `cfi` and `upl` lose nothing. -/
theorem infoWord_eq_groups (h : HeaderFields) :
    infoWord h = headerGroup0 h ++ headerGroup1 h ++ headerGroup2 h := by
  apply BitVec.eq_of_toNat_eq
  simp only [infoWord, headerGroup0, headerGroup1, headerGroup2, toNat_append_eq_add, BitVec.extractLsb'_toNat,
    Nat.shiftRight_eq_div_pow]
  omega

theorem infoFields_infoWord (h : HeaderFields) : infoFields (infoWord h) = h := by
  simp (disch := decide) only [infoFields, infoWord, BitVec.extractLsb'_append_eq_of_le,
    BitVec.extractLsb'_append_eq_of_add_le]
  simp

/-! ### The header as words: sent (R151, R152) and received (R154) -/

/-- The header as it is sent is the three groups' codewords. -/
theorem headerOctets_eq (b : List (BitVec 12)) (h : HeaderFields) :
    headerOctets b h = octets72 (golayEncode b (headerGroup0 h) ++ golayEncode b (headerGroup1 h) ++
      golayEncode b (headerGroup2 h)) := by
  rw [headerOctets, infoWord_eq_groups]
  simp (disch := decide) only [BitVec.extractLsb'_append_eq_of_le, BitVec.extractLsb'_append_eq_of_add_le]
  simp

/-- So its octets are those of the three codewords, each big-endian. -/
theorem headerOctets_eq_flatMap (b : List (BitVec 12)) (h : HeaderFields) :
    headerOctets b h =
      [golayEncode b (headerGroup0 h), golayEncode b (headerGroup1 h), golayEncode b (headerGroup2 h)].flatMap
        octets24 := by
  simp [headerOctets_eq, octets72_append]

/-- Data Field 1 with the value `uhf`, when the option is set (R152). -/
def dataField1 (df1 : Bool) (uhf : Byte) : Bytes := if df1 then [uhf] else []

@[simp] theorem dataField1_length (df1 : Bool) (uhf : Byte) : (dataField1 df1 uhf).length = df1.toNat := by
  cases df1 <;> rfl

theorem headD_dataField1 (df1 : Bool) (uhf : Byte) : (dataField1 df1 uhf).headD 0 = if df1 then uhf else 0 := by
  cases df1 <;> rfl

theorem headerEncode_eq (b : List (BitVec 12)) (df1 : Bool) (h : HeaderFields) :
    headerEncode b df1 h = dataField1 df1 0x80 ++ headerOctets b h := by
  cases df1 <;> rfl

/-- What the header decoder reports of three received words after a Data Field 1 of value `uhf`. -/
def decodeWords (b : List (BitVec 12)) (uhf : Byte) (x y z : BitVec 24) : HeaderDecoded :=
  { fields := infoFields ((golayDecode b x).data ++ (golayDecode b y).data ++ (golayDecode b z).data)
    ok0 := (golayDecode b x).ok
    ok1 := (golayDecode b y).ok
    ok2 := (golayDecode b z).ok
    uhf := uhf }

/-- Received octets are decoded word by word; those after the header do not count. -/
theorem headerDecode_words (b : List (BitVec 12)) {df1 : Bool} {lead : Bytes} (hlead : lead.length = df1.toNat)
    (x y z : BitVec 24) (rest : Bytes) :
    headerDecode b df1 (lead ++ octets72 (x ++ y ++ z) ++ rest) = decodeWords b (lead.headD 0) x y z := by
  have hwords : ((lead ++ octets72 (x ++ y ++ z) ++ rest).drop df1.toNat).take hdrLen = octets72 (x ++ y ++ z) := by
    rw [List.append_assoc, List.drop_left' hlead]
    exact List.take_left' (octets72_length _)
  have huhf : (if df1 then (lead ++ octets72 (x ++ y ++ z) ++ rest).headD 0 else 0) = lead.headD 0 := by
    cases df1 with
    | false => rw [List.eq_nil_of_length_eq_zero hlead]; rfl
    | true => obtain ⟨o, rfl⟩ := List.length_eq_one_iff.1 hlead; rfl
  simp only [headerDecode, hwords, be72_octets72, word72_zero_append, word72_one_append, word72_two_append, huhf,
    decodeWords]

/-- A header with the errors `e0`, `e1`, `e2` in its codewords is received as the codewords with their own errors. -/
theorem headerDecode_corrupted (b : List (BitVec 12)) (h : HeaderFields) (e0 e1 e2 : BitVec 24) (df1 : Bool)
    (uhf : Byte) (rest : Bytes) :
    headerDecode b df1 (dataField1 df1 uhf ++ octets72 (be72 (headerOctets b h) ^^^ (e0 ++ e1 ++ e2)) ++ rest) =
      decodeWords b (if df1 then uhf else 0) (golayEncode b (headerGroup0 h) ^^^ e0)
        (golayEncode b (headerGroup1 h) ^^^ e1) (golayEncode b (headerGroup2 h) ^^^ e2) := by
  rw [headerOctets_eq, be72_octets72, BitVec.xor_append, BitVec.xor_append,
    headerDecode_words b (dataField1_length df1 uhf), headD_dataField1]

/-- Three words that decode to the groups of `h` decode to `h`. -/
theorem decodeWords_of_groups {b : List (BitVec 12)} {x y z : BitVec 24} {h : HeaderFields} {n0 n1 n2 : BitVec 8}
    (hx : golayDecode b x = { data := headerGroup0 h, ok := true, nerr := n0 })
    (hy : golayDecode b y = { data := headerGroup1 h, ok := true, nerr := n1 })
    (hz : golayDecode b z = { data := headerGroup2 h, ok := true, nerr := n2 }) (uhf : Byte) :
    decodeWords b uhf x y z = { fields := h, ok0 := true, ok1 := true, ok2 := true, uhf := uhf } := by
  rw [decodeWords, hx, hy, hz, ← infoWord_eq_groups, infoFields_infoWord]

/-- A header as it was sent decodes to its fields, whatever octets follow it. -/
theorem headerDecode_headerEncode {b : List (BitVec 12)} (hb : golayMatrixOk b = true) (df1 : Bool) (h : HeaderFields)
    (rest : Bytes) :
    headerDecode b df1 (headerEncode b df1 h ++ rest) =
      { fields := h, ok0 := true, ok1 := true, ok2 := true, uhf := if df1 then 128 else 0 } := by
  rw [headerEncode_eq, headerOctets_eq, headerDecode_words b (dataField1_length df1 0x80), headD_dataField1]
  exact decodeWords_of_groups (golayDecode_golayEncode hb _) (golayDecode_golayEncode hb _)
    (golayDecode_golayEncode hb _) _

/-- A codeword with exactly four errors makes the header invalid (R155, R156). -/
theorem headerValid_of_four_flips {b : List (BitVec 12)} (hb : golayMatrixOk b = true) {d0 d1 d2 : BitVec 12}
    {e0 e1 e2 : BitVec 24} (he : popcount e0 = 4 ∨ popcount e1 = 4 ∨ popcount e2 = 4) (uhf : Byte) :
    headerValid (decodeWords b uhf (golayEncode b d0 ^^^ e0) (golayEncode b d1 ^^^ e1) (golayEncode b d2 ^^^ e2)) =
      false := by
  rcases he with he | he | he <;> simp [headerValid, decodeWords, golayDetectsFourErrors b _ _ hb he]

/-! ### Results packed in a register (30_encoding.md R65) -/

theorem hpackA_eq_ofNat (cfi : BitVec 7) (upl : BitVec 12) (upfi : BitVec 8) :
    hpackA cfi upl upfi = BitVec.ofNat 32 (cfi.toNat + upl.toNat * 2 ^ 7 + upfi.toNat * 2 ^ 19) := by
  have htoNat : (hpackA cfi upl upfi).toNat = cfi.toNat + upl.toNat * 2 ^ 7 + upfi.toNat * 2 ^ 19 := by
    simp only [hpackA, toNat_append_eq_add, BitVec.toNat_ofNat]
    omega
  rw [← htoNat, BitVec.ofNat_toNat, BitVec.setWidth_eq]

/-- `HPACK_A` of the fields of a word is the word without its bits above them. -/
theorem hpackA_fields (w : Word) :
    hpackA (w.extractLsb' 0 7) (w.extractLsb' 7 12) (w.extractLsb' 19 8) = w &&& 0x07FFFFFF := by
  apply BitVec.eq_of_toNat_eq
  rw [BitVec.toNat_and, show (0x07FFFFFF : Word).toNat = 2 ^ 27 - 1 from rfl, Nat.and_two_pow_sub_one_eq_mod]
  simp only [hpackA, toNat_append_eq_add, BitVec.extractLsb'_toNat, BitVec.toNat_ofNat, Nat.shiftRight_eq_div_pow]
  omega

theorem toNat_hpackB (ec : BitVec 6) (rf : BitVec 3) (valid ok0 ok1 ok2 : Bool) (uhf : BitVec 8) (kind : BitVec 2) :
    (hpackB ec rf valid ok0 ok1 ok2 uhf kind).toNat =
      ec.toNat + rf.toNat * 2 ^ 6 + valid.toNat * 2 ^ 9 + ok0.toNat * 2 ^ 10 + ok1.toNat * 2 ^ 11 + ok2.toNat * 2 ^ 12 +
        uhf.toNat * 2 ^ 13 + kind.toNat * 2 ^ 21 := by
  simp only [hpackB, toNat_append_eq_add, BitVec.toNat_ofNat, BitVec.toNat_ofBool]
  omega

/-- With `kind` 0 (HDR_DEC) the fields end at bit 20. -/
theorem hpackB_zero_eq_ofNat (ec : BitVec 6) (rf : BitVec 3) (valid ok0 ok1 ok2 : Bool) (uhf : BitVec 8) :
    hpackB ec rf valid ok0 ok1 ok2 uhf 0 =
      BitVec.ofNat 32 (ec.toNat + rf.toNat * 2 ^ 6 + valid.toNat * 2 ^ 9 + ok0.toNat * 2 ^ 10 + ok1.toNat * 2 ^ 11 +
        ok2.toNat * 2 ^ 12 + uhf.toNat * 2 ^ 13) := by
  have htoNat := toNat_hpackB ec rf valid ok0 ok1 ok2 uhf 0
  rw [BitVec.ofNat_eq_ofNat, BitVec.toNat_zero, Nat.zero_mul, Nat.add_zero] at htoNat
  rw [← htoNat, BitVec.ofNat_toNat, BitVec.setWidth_eq, BitVec.ofNat_eq_ofNat]

/-- Each part of `HPACK_B` stands where R65 puts it. -/
theorem hpackB_fields (ec : BitVec 6) (rf : BitVec 3) (valid ok0 ok1 ok2 : Bool) (uhf : BitVec 8) (kind : BitVec 2) :
    let w := hpackB ec rf valid ok0 ok1 ok2 uhf kind
    w.extractLsb' 0 6 = ec ∧ w.extractLsb' 6 3 = rf ∧ w.getLsbD 9 = valid ∧ w.getLsbD 10 = ok0 ∧
      w.getLsbD 11 = ok1 ∧ w.getLsbD 12 = ok2 ∧ w.extractLsb' 13 8 = uhf ∧ w.extractLsb' 21 2 = kind ∧
      w.extractLsb' 23 9 = 0 := by
  refine ⟨?_, ?_, ?_, ?_, ?_, ?_, ?_, extract_kind_hpackB _ _ _ _ _ _ _ _, ?_⟩
  all_goals
    simp (disch := decide) only [hpackB, BitVec.getLsbD_append, BitVec.extractLsb'_append_eq_of_le,
      BitVec.extractLsb'_append_eq_of_add_le]
    simp

/-! ### What the commands answer (R153, R154; 45_mpdu_framer.md R172) -/

theorem golayMatrixOk_of_legal {p : Params} (hp : legalParams p = true) : golayMatrixOk p.golayB = true := by
  simp only [legalParams, Bool.and_eq_true] at hp
  obtain ⟨⟨⟨⟨-, hgolay⟩, -⟩, -⟩, -⟩ := hp
  exact hgolay

section Commands

variable {s : State} {df1 : Bool}

/-- The fields HDR_ENC encodes: `ec` and `rf` of the command, the others of `OPA` (R153). -/
def operandFields (ec : BitVec 6) (rf : BitVec 3) (s : State) : HeaderFields :=
  { rf := rf, ec := ec, cfi := opaCfi s, upl := opaUpl s, upfi := opaUpfi s }

theorem exec_hdrEnc (ec : BitVec 6) (rf : BitVec 3) (hfits : ioFits s.params s.input.length = true)
    (hout : ioFits s.params (9 + df1.toNat) = true) :
    exec (.hdrEnc ec rf df1) s =
      .next (s.complete 0 0 (headerEncode s.params.golayB df1 (operandFields ec rf s))) := by
  simp only [exec, execHdrEnc, runCommand_of_fits hfits]
  rw [reply_of_fits (by rwa [headerEncode_length])]
  rfl

/-- HDR_ENC refuses nothing of its own under legal parameters: with `OK` it has sent the header. -/
theorem hdrEnc_ok {t : State} {ec : BitVec 6} {rf : BitVec 3} (hp : legalParams s.params = true)
    (hexec : exec (.hdrEnc ec rf df1) s = .next t) (hstatus : t.status = 0) :
    t = s.complete 0 0 (headerEncode s.params.golayB df1 (operandFields ec rf s)) := by
  cases hfits : ioFits s.params s.input.length with
  | true =>
    have hout : ioFits s.params (9 + df1.toNat) = true :=
      ioFits_of_legal hp (by have := df1.toNat_le; omega)
    exact Host.Outcome.next.inj (hexec.symm.trans (exec_hdrEnc ec rf hfits hout))
  | false =>
    simp only [exec, execHdrEnc, runCommand_of_not_fits hfits] at hexec
    obtain rfl := Host.Outcome.next.inj hexec
    cases eq_ok_of_raiseWith_status hstatus

theorem exec_hdrDec_of_length (hfits : ioFits s.params s.input.length = true)
    (hlength : hdrLen + df1.toNat ≤ s.input.length) {h : HeaderDecoded}
    (hheader : headerDecode s.params.golayB df1 s.input = h) :
    exec (.hdrDec df1) s = .next (s.complete (headerRes0 h) (headerRes1 h .fragmentAccepted) []) := by
  simp only [exec, execHdrDec, runCommand_of_fits hfits, if_neg (Nat.not_lt.2 hlength), hheader, reply_nil]

theorem exec_hdrDec_of_short (hfits : ioFits s.params s.input.length = true)
    (hlength : s.input.length < hdrLen + df1.toNat) : exec (.hdrDec df1) s = .next (s.raise .badFormat) := by
  simp only [exec, execHdrDec, runCommand_of_fits hfits, if_pos hlength]

/-- RX_FRAME drops a frame of the right length whose header is invalid. -/
theorem exec_rxFrame_of_corrupt (hfits : ioFits s.params s.input.length = true)
    (hlength : s.input.length = frameOctets df1) {h : HeaderDecoded}
    (hheader : headerDecode s.params.golayB df1 s.input = h) (hvalid : headerValid h = false) :
    exec (.rxFrame df1) s = .next (rxReject s h .headerInvalid .headerCorrupt) := by
  rw [exec_rxFrame, execRxFrame, runCommand_of_fits hfits]
  simp only [if_neg (not_not.2 hlength), hheader, hvalid, Bool.not_false, if_true]

end Commands

/-! ### The obligations -/

/-- Settles O46: the octets are those of the three groups' codewords. -/
theorem hdrEncCompletes : Obligations.HdrEncCompletes := by
  intro s ec rf df1 hfits hout
  have hoctets := headerOctets_eq_flatMap s.params.golayB (operandFields ec rf s)
  refine ⟨hoctets, ?_⟩
  rw [exec_hdrEnc ec rf hfits hout, headerEncode_eq, hoctets]
  rfl

/-- Settles O47: nine octets are three words, and the parts of the results do not overlap. -/
theorem hdrDecCompletes : Obligations.HdrDecCompletes := by
  refine ⟨hpackA_eq_ofNat, hpackB_fields, fun s df1 hfits => ⟨?_, exec_hdrDec_of_short hfits⟩⟩
  intro lead rest x0 x1 x2 y0 y1 y2 z0 z1 z2 hlead hinput
  have hwords : s.input = lead ++ octets72 ((x0 ++ x1 ++ x2 : BitVec 24) ++ (y0 ++ y1 ++ y2 : BitVec 24) ++
      (z0 ++ z1 ++ z2 : BitVec 24)) ++ rest := by
    rw [octets72_append, octets24_append, octets24_append, octets24_append, hinput]
    rfl
  have hlength : 9 + df1.toNat ≤ s.input.length := by
    rw [hwords, List.length_append, List.length_append, octets72_length, hlead]
    omega
  have hdecoded := headerDecode_words s.params.golayB hlead (x0 ++ x1 ++ x2) (y0 ++ y1 ++ y2) (z0 ++ z1 ++ z2) rest
  rw [← hwords] at hdecoded
  rw [exec_hdrDec_of_length hfits hlength hdecoded]
  simp only [headerRes0, headerRes1, decodeWords, infoFields, headerValid, kindCode, hpackA_eq_ofNat,
    hpackB_zero_eq_ofNat]
  rfl

/-- Settles O48: the header sent is decoded to its fields, and those are `OPA`'s and the command's. -/
theorem headerRoundTrip : Obligations.HeaderRoundTrip := by
  intro s t ec rf df1 rest hp hexec hstatus hfits
  obtain rfl := hdrEnc_ok hp hexec hstatus
  have hdecoded := headerDecode_headerEncode (golayMatrixOk_of_legal hp) df1 (operandFields ec rf s) rest
  have hlength : hdrLen + df1.toNat ≤
      (headerEncode s.params.golayB df1 (operandFields ec rf s) ++ rest).length := by
    rw [List.length_append, headerEncode_length]
    exact Nat.le_add_right _ _
  exact ⟨_, exec_hdrDec_of_length hfits hlength hdecoded, rfl, hpackA_fields s.opa, rfl⟩

/-- Settles O49: each codeword corrects its own errors. -/
theorem headerSurvivesThreeFlipsPerCodeword : Obligations.HeaderSurvivesThreeFlipsPerCodeword := by
  intro b h e0 e1 e2 df1 uhf rest hb he0 he1 he2
  exact (headerDecode_corrupted b h e0 e1 e2 df1 uhf rest).trans <|
    decodeWords_of_groups (golayDecode_golayEncode_xor hb _ he0) (golayDecode_golayEncode_xor hb _ he1)
      (golayDecode_golayEncode_xor hb _ he2) _

/-- Settles O50: the codeword with four errors is not correctable, so the header is invalid. -/
theorem fourFlipsInACodewordDropTheFrame : Obligations.FourFlipsInACodewordDropTheFrame := by
  intro s h e0 e1 e2 df1 uhf payload hp hpayload he hinput
  have hdecoded := headerDecode_corrupted s.params.golayB h e0 e1 e2 df1 uhf payload
  rw [dataField1, ← hinput] at hdecoded
  have hlength : s.input.length = frameOctets df1 := by
    rw [hinput, ← dataField1, List.length_append, List.length_append, dataField1_length, octets72_length, hpayload,
      frameOctets, mpduLen]
    omega
  have hfits : ioFits s.params s.input.length = true :=
    ioFits_of_legal hp (by have := df1.toNat_le; simp only [hlength, frameOctets, mpduLen]; omega)
  have hvalid := headerValid_of_four_flips (golayMatrixOk_of_legal hp) (d0 := headerGroup0 h) (d1 := headerGroup1 h)
    (d2 := headerGroup2 h) he (if df1 then uhf else 0)
  exact ⟨_, exec_rxFrame_of_corrupt hfits hlength hdecoded hvalid, rfl, extract_kind_hpackB _ _ _ _ _ _ _ _, rfl,
    rfl, rfl⟩

end Sys2Proof.Machine

/-!
PROOFS. 45_mpdu_framer.md, the transmit side: the geometry of a packet and FRAME_COUNT (R165, R167), the codeword of a
block and its decoding (R168, R169, R171), and TX_PACKET with its refusals (R170).

The two schemes with a codec are told apart once (`frameCodec_eq_some_iff`). For both, the codeword is its body padded
to `c(s)` octets (`encodeBlock_eq_padOctets`), so a fragment is a window of the body with zeros behind it. A packet's
frames are one list over its places `(j, i)` (`packetFrames_eq_map`), which is what the receive side reads them by.
-/

namespace Sys2Proof.Machine

/-! ### The two schemes with a codec (R166) -/

theorem frameCodec_eq_some_iff {c : Scheme} {cdc : FrameCodec} :
    frameCodec c = some cdc ↔ c = .conv .r12 ∧ cdc = .convolutional ∨ c = .noFec ∧ cdc = .identity := by
  cases c with
  | conv r => cases r <;> simp [frameCodec, eq_comm]
  | noFec => simp [frameCodec, eq_comm]
  | reedSolomon | turbo | orangeBook | qcLdpc => simp [frameCodec]

theorem frameCodec_eq_none {c : Scheme} (hconv : c ≠ .conv .r12) (hnoFec : c ≠ .noFec) : frameCodec c = none := by
  rw [Option.eq_none_iff_forall_ne_some]
  intro cdc hcdc
  rcases frameCodec_eq_some_iff.1 hcdc with ⟨hc, -⟩ | ⟨hc, -⟩
  · exact hconv hc
  · exact hnoFec hc

theorem exists_frameCodec {c : Scheme} (hc : c = .conv .r12 ∨ c = .noFec) : ∃ cdc, frameCodec c = some cdc := by
  rcases hc with rfl | rfl <;> exact ⟨_, rfl⟩

/-- A message of a scheme with a codec is whole octets (R168). -/
theorem eight_mul_blockOctets {p : Params} (hp : legalParams p = true) {c : Scheme} {cdc : FrameCodec}
    (hcdc : frameCodec c = some cdc) : 8 * blockOctets p c = messageBits p c := by
  rcases frameCodec_eq_some_iff.1 hcdc with ⟨rfl, -⟩ | ⟨rfl, -⟩
  · exact Nat.mul_div_cancel' (Nat.dvd_of_mod_eq_zero (messageBits_r12 hp).1)
  · exact Nat.mul_div_cancel' (Nat.dvd_mul_right 8 _)

/-- A NO_FEC codeword has the octets of its block. -/
theorem codewordOctets_noFec (p : Params) : codewordOctets p .noFec = blockOctets p .noFec := by
  rw [codewordOctets_eq, blockOctets, codewordBits, messageBits, noFecBits_eq]
  omega

/-! ### The number of frames (R165, R167) -/

theorem default_message_holds_frags {c : Scheme} :
    8 ≤ messageBits defaultParams c ∧ messageBits defaultParams c ≤ 121856 ∧
      (fragsPerCodeword defaultParams c = 1 ∨ 16 * fragsPerCodeword defaultParams c ≤ messageBits defaultParams c) := by
  have hall : ∀ c ∈ allSchemes, 8 ≤ messageBits defaultParams c ∧ messageBits defaultParams c ≤ 121856 ∧
      (fragsPerCodeword defaultParams c = 1 ∨
        16 * fragsPerCodeword defaultParams c ≤ messageBits defaultParams c) := by
    decide +kernel
  exact hall c (mem_allSchemes c)

/-- A message of more than one fragment has two octets and more for each. -/
theorem message_holds_frags {p : Params} (hp : legalParams p = true) (c : Scheme) :
    8 ≤ messageBits p c ∧ messageBits p c ≤ 121856 ∧
      (fragsPerCodeword p c = 1 ∨ 16 * fragsPerCodeword p c ≤ messageBits p c) := by
  have hcmax := cmax_range hp
  by_cases hconv : ∃ r, c = .conv r
  · obtain ⟨r, rfl⟩ := hconv
    rw [fragsPerCodeword_eq, if_neg nofun, ceilDiv, codewordOctets_eq, codewordBits, messageBits, convMessageBits_eq]
    cases r <;> simp only [convFraction] <;> omega
  by_cases hnoFec : c = .noFec
  · subst hnoFec
    rw [fragsPerCodeword_eq, if_pos rfl, messageBits, noFecBits_eq]
    omega
  obtain ⟨hcodeword, hmessage⟩ := blockRow_bits_eq_default p (fun r hc => hconv ⟨r, hc⟩) hnoFec
  have hfrags : fragsPerCodeword p c = fragsPerCodeword defaultParams c := by
    rw [fragsPerCodeword_eq, fragsPerCodeword_eq, codewordOctets, codewordOctets, hcodeword]
  rw [hmessage, hfrags]
  exact default_message_holds_frags

/-- With one fragment there are no more frames than octets; with more, at most one for every two octets, but for the
last codeword's. -/
theorem frameTotal_lt {p : Params} (hp : legalParams p = true) (c : Scheme) {len : Nat} (hlen : len < 2 ^ 32) :
    frameTotal p c len < 2 ^ 32 := by
  obtain ⟨hleast, hmost, hfrags⟩ := message_holds_frags hp c
  rw [frameTotal, codewordCount]
  generalize hq : ceilDiv (8 * len) (messageBits p c) = q
  rcases hfrags with hone | hmany
  · have hle : q ≤ len := hq ▸ (ceilDiv_le_iff (by omega)).2 (Nat.mul_le_mul_right len hleast)
    rw [hone]
    omega
  · have hqm : q * messageBits p c ≤ 8 * len + messageBits p c - 1 := hq ▸ Nat.div_mul_le_self _ _
    have hqk : q * (16 * fragsPerCodeword p c) ≤ q * messageBits p c := Nat.mul_le_mul_left q hmany
    rw [Nat.mul_left_comm] at hqk
    rcases Nat.eq_zero_or_pos q with rfl | hpos
    · rw [Nat.max_eq_left (Nat.zero_le 1)]
      omega
    · rw [Nat.max_eq_right hpos]
      omega

/-- Settles O51: the command replies the number of frames, which fits the register. -/
theorem frameCountCompletes : Obligations.FrameCountCompletes := by
  intro s ec c hp hfits hc m n
  refine ⟨frameTotal_lt hp c s.opa.isLt, ?_⟩
  simp only [exec, execFrameCount, runCommand_of_fits hfits, hc, reply_nil]
  rfl

/-! ### Zero padding (00_scope.md R13) -/

theorem padOctets_of_length {n : Nat} {x : Bytes} (h : x.length = n) : padOctets n x = x := by
  rw [padOctets, h, Nat.sub_self]
  exact List.append_nil x

theorem padOctets_padOctets {m n : Nat} {x : Bytes} (hx : x.length ≤ m) (hmn : m ≤ n) :
    padOctets n (padOctets m x) = padOctets n x := by
  rw [padOctets, padOctets_length hx, padOctets, padOctets, List.append_assoc, zeroOctets, zeroOctets, zeroOctets,
    ← List.replicate_add]
  congr 2
  omega

/-- A window of `x` padded with zeros does not depend on how many there are, as long as it lies within them. -/
theorem take_drop_padOctets {d m n a : Nat} {x : Bytes} (hn : d + m ≤ n) (ha : d + m ≤ x.length + a) :
    ((padOctets n x).drop d).take m = ((x ++ zeroOctets a).drop d).take m := by
  have hzeros : min (d + m - x.length) (n - x.length) = min (d + m - x.length) a := by omega
  rw [List.take_drop, List.take_drop, padOctets, List.take_append, List.take_append, zeroOctets, zeroOctets,
    List.take_replicate, List.take_replicate, hzeros]

/-! ### The codeword of a block (R169) and its decoding (R171) -/

/-- The codeword of a block before it is padded to `c(s)` octets. -/
def codewordBody (p : Params) (c : Scheme) (cdc : FrameCodec) (b : Bytes) : Bytes :=
  match cdc with
  | .identity => b
  | .convolutional =>
    pack8 (convBits p.polyOrder (bits8 b ++ List.replicate (codewordBits p c / 2 - messageBits p c) false))

section Codeword

variable {p : Params} (hp : legalParams p = true) {c : Scheme} {cdc : FrameCodec} (hcdc : frameCodec c = some cdc)
  {b : Bytes} (hb : b.length = blockOctets p c)

include hp hcdc hb

/-- The message bits with their zero fill are half a codeword. -/
theorem convBits_fill_length (hc : c = .conv .r12) :
    (convBits p.polyOrder (bits8 b ++ List.replicate (codewordBits p c / 2 - messageBits p c) false)).length =
      2 * (codewordBits p c / 2) := by
  have hwhole := eight_mul_blockOctets hp hcdc
  subst hc
  have htail := (messageBits_r12 hp).2
  rw [convBits_length, List.length_append, bits8_length, List.length_replicate, hb, hwhole]
  omega

theorem codewordBody_length_le : (codewordBody p c cdc b).length ≤ codewordOctets p c := by
  rcases frameCodec_eq_some_iff.1 hcdc with ⟨hc, rfl⟩ | ⟨rfl, rfl⟩
  · rw [codewordBody, pack8_length, convBits_fill_length hp hcdc hb hc, ceilDiv_le_iff (by decide), codewordOctets_eq]
    omega
  · exact (hb.trans (codewordOctets_noFec p).symm).le

omit hp in
theorem encodeBlock_eq_padOctets :
    encodeBlock p c cdc b = padOctets (codewordOctets p c) (codewordBody p c cdc b) := by
  rcases frameCodec_eq_some_iff.1 hcdc with ⟨rfl, rfl⟩ | ⟨rfl, rfl⟩
  · rfl
  · exact (padOctets_of_length (hb.trans (codewordOctets_noFec p).symm)).symm

theorem encodeBlock_length : (encodeBlock p c cdc b).length = codewordOctets p c := by
  rw [encodeBlock_eq_padOctets hcdc hb, padOctets_length (codewordBody_length_le hp hcdc hb)]

/-- The received bits that R171 decodes are those of the encoding: what fills the last octets comes after them. -/
theorem decodeBlock_encodeBlock : decodeBlock p c cdc (encodeBlock p c cdc b) = b := by
  have hwhole := eight_mul_blockOctets hp hcdc
  rcases frameCodec_eq_some_iff.1 hcdc with ⟨rfl, rfl⟩ | ⟨rfl, rfl⟩
  · have htail := (messageBits_r12 hp).2
    have hlength := convBits_fill_length hp hcdc hb rfl
    have hbits : (bits8 b).length = messageBits p (.conv .r12) := by rw [bits8_length, hb, hwhole]
    obtain ⟨n, hfill⟩ : ∃ n, codewordBits p (.conv .r12) / 2 - messageBits p (.conv .r12) = 6 + n :=
      ⟨codewordBits p (.conv .r12) / 2 - messageBits p (.conv .r12) - 6, by omega⟩
    rw [encodeBlock_eq_padOctets hcdc hb, decodeBlock, codewordBody, padOctets, bits8_append, bits8_pack8,
      List.append_assoc, List.take_left' hlength, hfill, viterbi_convBits_terminated, List.take_left' hbits,
      pack8_bits8]
  · exact List.take_of_length_le hb.le

omit hb in
theorem decodeBlock_length {w : Bytes} (hw : w.length = codewordOctets p c) :
    (decodeBlock p c cdc w).length = blockOctets p c := by
  have hwhole := eight_mul_blockOctets hp hcdc
  rcases frameCodec_eq_some_iff.1 hcdc with ⟨rfl, rfl⟩ | ⟨rfl, rfl⟩
  · have htail := (messageBits_r12 hp).2
    rw [codewordOctets_eq] at hw
    simp only [decodeBlock, pack8_length, List.length_take, viterbi_length, bits8_length, hw]
    rw [Nat.min_eq_left (by omega), ← hwhole, ceilDiv_mul_self (by decide)]
  · rw [decodeBlock, List.length_take, hw, codewordOctets_noFec, Nat.min_self]

end Codeword

/-- Settles O54: `Dec` is R171 as it stands, and undoes `Enc`. -/
theorem codewordDecodesToItsBlock : Obligations.CodewordDecodesToItsBlock := by
  intro p c cdc b hp hcdc hb
  exact ⟨encodeBlock_length hp hcdc hb, decodeBlock_encodeBlock hp hcdc hb,
    fun _ => ⟨rfl, rfl, decodeBlock_length hp hcdc⟩⟩

/-! ### The frames of a packet, by their places (R170) -/

/-- The places `(j, i)` of a packet's frames: codeword `j`, fragment `i`, ascending. -/
def packetPlaces (p : Params) (c : Scheme) (len : Nat) : List (Nat × Nat) :=
  List.range (codewordCount p c len) ×ˢ List.range (fragsPerCodeword p c)

/-- The fragment at a place of the packet `x`. -/
def packetFragment (p : Params) (c : Scheme) (cdc : FrameCodec) (x : Bytes) (place : Nat × Nat) : Bytes :=
  fragment p c (encodeBlock p c cdc (messageBlock p c x place.1)) place.2

/-- The frame at a place of the packet `x`. -/
def packetFrame (p : Params) (c : Scheme) (cdc : FrameCodec) (ec : BitVec 6) (rf : BitVec 3) (df1 : Bool) (x : Bytes)
    (place : Nat × Nat) : Bytes :=
  headerEncode p.golayB df1 (frameHeader ec rf x.length place.1 place.2) ++
    packetFragment p c cdc x place

theorem mem_packetPlaces {p : Params} {c : Scheme} {len j i : Nat} :
    (j, i) ∈ packetPlaces p c len ↔ j < codewordCount p c len ∧ i < fragsPerCodeword p c := by
  rw [packetPlaces, List.mem_product, List.mem_range, List.mem_range]

theorem packetPlaces_nodup (p : Params) (c : Scheme) (len : Nat) : (packetPlaces p c len).Nodup :=
  List.nodup_range.product List.nodup_range

theorem packetFrames_eq_map (p : Params) (c : Scheme) (cdc : FrameCodec) (ec : BitVec 6) (rf : BitVec 3) (df1 : Bool)
    (x : Bytes) :
    packetFrames p c cdc ec rf df1 x = (packetPlaces p c x.length).map (packetFrame p c cdc ec rf df1 x) := by
  have hflatMap : packetPlaces p c x.length =
      (List.range (codewordCount p c x.length)).flatMap fun j =>
        (List.range (fragsPerCodeword p c)).map (Prod.mk j) := rfl
  rw [hflatMap, List.map_flatMap]
  simp only [List.map_map]
  rfl

/-- Lists of `k` elements, one after the other: element `i` of list `j` is at place `j k + i`. -/
theorem getElem?_flatMap_of_length {α β : Type} {f : α → List β} {k : Nat} (hf : ∀ a, (f a).length = k) (l : List α)
    (j : Nat) {i : Nat} (hi : i < k) : (l.flatMap f)[j * k + i]? = l[j]?.bind fun a => (f a)[i]? := by
  induction l generalizing j with
  | nil => simp
  | cons a l ih =>
    rw [List.flatMap_cons]
    cases j with
    | zero => rw [Nat.zero_mul, Nat.zero_add, List.getElem?_append_left (by rwa [hf])]; rfl
    | succ j =>
      have hplace : (j + 1) * k + i - k = j * k + i := by rw [Nat.succ_mul]; omega
      rw [List.getElem?_append_right (by rw [hf, Nat.succ_mul]; omega), hf, hplace, ih, List.getElem?_cons_succ]

theorem packetFrames_getElem? (p : Params) (c : Scheme) (cdc : FrameCodec) (ec : BitVec 6) (rf : BitVec 3) (df1 : Bool)
    (x : Bytes) {j i : Nat} (hj : j < codewordCount p c x.length) (hi : i < fragsPerCodeword p c) :
    (packetFrames p c cdc ec rf df1 x)[j * fragsPerCodeword p c + i]? =
      some (packetFrame p c cdc ec rf df1 x (j, i)) := by
  rw [packetFrames, getElem?_flatMap_of_length (codewordFrames_length p c cdc ec rf df1 x) _ _ hi,
    List.getElem?_range hj, Option.bind_some, codewordFrames, List.getElem?_map, List.getElem?_range hi]
  rfl

/-- Cutting frames of one length that stand one after the other gives the frames back. -/
theorem cutFrames_flatten {size : Nat} {frames : List Bytes} (h : ∀ f ∈ frames, f.length = size) :
    cutFrames size frames.length frames.flatten = frames := by
  induction frames with
  | nil => rfl
  | cons f frames ih =>
    obtain ⟨hf, hframes⟩ := List.forall_mem_cons.1 h
    rw [List.length_cons, cutFrames, List.flatten_cons, List.take_left' hf, List.drop_left' hf, ih hframes]

theorem flatten_length_of_length {size : Nat} {frames : List Bytes} (h : ∀ f ∈ frames, f.length = size) :
    frames.flatten.length = frames.length * size := by
  rw [List.length_flatten, List.map_congr_left h, List.map_const', List.sum_replicate, smul_eq_mul]

section Frames

variable {p : Params} (hp : legalParams p = true) {c : Scheme} {cdc : FrameCodec} (hcdc : frameCodec c = some cdc)
  (ec : BitVec 6) (rf : BitVec 3) (df1 : Bool) (x : Bytes)

include hp hcdc

theorem packetFragment_length {place : Nat × Nat} (hi : place.2 < fragsPerCodeword p c) :
    (packetFragment p c cdc x place).length = mtu := by
  refine fragment_length ?_ hi
  rw [encodeBlock_length hp hcdc (messageBlock_length p c x place.1)]
  exact codewordOctets_le_frags p c

theorem packetFrame_length {place : Nat × Nat} (hi : place.2 < fragsPerCodeword p c) :
    (packetFrame p c cdc ec rf df1 x place).length = frameOctets df1 := by
  rw [packetFrame, List.length_append, headerEncode_length, packetFragment_length hp hcdc x hi, frameOctets,
    mpduLen, mtu]
  omega

theorem length_of_mem_packetFrames {f : Bytes} (hf : f ∈ packetFrames p c cdc ec rf df1 x) :
    f.length = frameOctets df1 := by
  rw [packetFrames_eq_map] at hf
  obtain ⟨⟨j, i⟩, hplace, rfl⟩ := List.mem_map.1 hf
  exact packetFrame_length hp hcdc ec rf df1 x (mem_packetPlaces.1 hplace).2

theorem packetFrames_flatten_length :
    (packetFrames p c cdc ec rf df1 x).flatten.length = frameTotal p c x.length * frameOctets df1 := by
  rw [flatten_length_of_length fun f => length_of_mem_packetFrames hp hcdc ec rf df1 x, packetFrames_length]

theorem cutFrames_packetFrames :
    cutFrames (frameOctets df1) (frameTotal p c x.length) (packetFrames p c cdc ec rf df1 x).flatten =
      packetFrames p c cdc ec rf df1 x := by
  have hcut := cutFrames_flatten fun f => length_of_mem_packetFrames hp hcdc ec rf df1 x (f := f)
  rwa [packetFrames_length] at hcut

/-- Fragment `i` is octets `119 i .. 119 i + 118` of the codeword's body with zeros behind it (R170). -/
theorem fragment_encodeBlock {b : Bytes} (hb : b.length = blockOctets p c) {i : Nat} (hi : i < fragsPerCodeword p c) :
    fragment p c (encodeBlock p c cdc b) i =
      ((codewordBody p c cdc b ++ zeroOctets (fragsPerCodeword p c * mtu)).drop (mtu * i)).take mtu := by
  have hwindow : mtu * i + mtu ≤ fragsPerCodeword p c * mtu := by
    rw [← Nat.mul_succ, Nat.mul_comm]
    exact Nat.mul_le_mul_right mtu hi
  rw [fragment, encodeBlock_eq_padOctets hcdc hb,
    padOctets_padOctets (n := fragsPerCodeword p c * mtu) (codewordBody_length_le hp hcdc hb)
      (codewordOctets_le_frags p c), Nat.mul_comm i,
    take_drop_padOctets hwindow (Nat.le_add_left_of_le hwindow)]

end Frames

/-! ### TX_PACKET (R170) -/

/-- The limits of TX_PACKET: what the header's fields can hold, and `IO_MAX` (R170). -/
structure TxFits (s : State) (c : Scheme) (df1 : Bool) : Prop where
  packet : s.input.length ≤ 4095
  codewords : codewordCount s.params c s.input.length ≤ 256
  frags : fragsPerCodeword s.params c ≤ 128
  out : ioFits s.params (frameTotal s.params c s.input.length * frameOctets df1) = true

section TxPacket

variable {s : State} {ec : BitVec 6} {rf : BitVec 3} {df1 : Bool} {c : Scheme} {cdc : FrameCodec}
  (hfits : ioFits s.params s.input.length = true) (hc : schemeOf s.params ec = some c)

include hfits hc

theorem exec_txPacket_of_no_codec (hcdc : frameCodec c = none) :
    exec (.txPacket ec rf df1) s = .next (s.raise .notImplemented) := by
  simp only [exec, execTxPacket, runCommand_of_fits hfits, hc, hcdc]

theorem exec_txPacket_of_not_fits (hcdc : frameCodec c = some cdc) (htx : ¬ TxFits s c df1) :
    exec (.txPacket ec rf df1) s = .next (s.raise .badFormat) := by
  simp only [exec, execTxPacket, runCommand_of_fits hfits, hc, hcdc]
  split_ifs with hfields hout
  · rfl
  · rfl
  · simp only [not_or, Nat.not_lt, Bool.not_eq_true', Bool.not_eq_false] at hfields hout
    obtain ⟨hpacket, hcodewords, hfrags⟩ := hfields
    exact absurd ⟨hpacket, hcodewords, hfrags, hout⟩ htx

theorem exec_txPacket_of_fits (hp : legalParams s.params = true) (hcdc : frameCodec c = some cdc)
    (htx : TxFits s c df1) :
    exec (.txPacket ec rf df1) s =
      .next (s.complete (BitVec.ofNat 32 (frameTotal s.params c s.input.length)) (BitVec.ofNat 32 (frameOctets df1))
        (packetFrames s.params c cdc ec rf df1 s.input).flatten) := by
  obtain ⟨hpacket, hcodewords, hfrags, hout⟩ := htx
  have hfields : ¬ (4095 < s.input.length ∨ 256 < codewordCount s.params c s.input.length ∨
      128 < fragsPerCodeword s.params c) := by omega
  rw [← reply_of_fits (by rwa [packetFrames_flatten_length hp hcdc])]
  simp only [exec, execTxPacket, runCommand_of_fits hfits, hc, hcdc, if_neg hfields, hout, Bool.not_true,
    Bool.false_eq_true, if_false]

end TxPacket

/-- TX_PACKET answered `OK`: the packet was within its limits, and these are its frames. -/
theorem txPacket_ok {s t : State} {ec : BitVec 6} {rf : BitVec 3} {df1 : Bool} (hp : legalParams s.params = true)
    (hexec : exec (.txPacket ec rf df1) s = .next t) (hstatus : t.status = 0) :
    ∃ c cdc, schemeOf s.params ec = some c ∧ frameCodec c = some cdc ∧ TxFits s c df1 ∧
      t = s.complete (BitVec.ofNat 32 (frameTotal s.params c s.input.length)) (BitVec.ofNat 32 (frameOctets df1))
        (packetFrames s.params c cdc ec rf df1 s.input).flatten := by
  have hnotRaised : ∀ {e : Status}, e ≠ .ok → exec (.txPacket ec rf df1) s ≠ .next (s.raise e) := by
    intro e he hraise
    obtain rfl := Host.Outcome.next.inj (hexec.symm.trans hraise)
    exact he (eq_ok_of_raiseWith_status hstatus)
  cases hfits : ioFits s.params s.input.length with
  | false =>
    refine absurd ?_ (hnotRaised (e := .badFormat) (by decide))
    rw [exec, execTxPacket, runCommand_of_not_fits hfits]
  | true =>
    cases hc : schemeOf s.params ec with
    | none =>
      refine absurd ?_ (hnotRaised (e := .invalidScheme) (by decide))
      simp only [exec, execTxPacket, runCommand_of_fits hfits, hc]
    | some c =>
      cases hcdc : frameCodec c with
      | none => exact absurd (exec_txPacket_of_no_codec hfits hc hcdc) (hnotRaised (by decide))
      | some cdc =>
        by_cases htx : TxFits s c df1
        · exact ⟨c, cdc, rfl, hcdc, htx,
            Host.Outcome.next.inj (hexec.symm.trans (exec_txPacket_of_fits hfits hc hp hcdc htx))⟩
        · exact absurd (exec_txPacket_of_not_fits hfits hc hcdc htx) (hnotRaised (by decide))

/-- Settles O52: the frames are the packet's, and the one at place `j k + i` is `packetFrame` of `(j, i)`. -/
theorem txPacketCompletes : Obligations.TxPacketCompletes := by
  intro s ec rf df1 c cdc hp hfits hc hcdc hlen m k nc n hnc hk hout zeros block codeword header
  have hk' : fragsPerCodeword s.params c = k := fragsPerCodeword_eq s.params c
  have hn : frameTotal s.params c s.input.length = n := congrArg (nc * ·) hk'
  have htx : TxFits s c df1 := ⟨hlen, hnc, hk'.trans_le hk, hn ▸ hout⟩
  refine ⟨packetFrames s.params c cdc ec rf df1 s.input, (packetFrames_length _ _ _ _ _ _ _).trans hn,
    fun f => length_of_mem_packetFrames hp hcdc ec rf df1 s.input, ?cut, fun j i hj hi => ?place, ?run⟩
  case cut =>
    rw [← hn]
    exact cutFrames_packetFrames hp hcdc ec rf df1 s.input
  case place =>
    have hblock : codewordBody s.params c cdc (messageBlock s.params c s.input j) = codeword j := by cases cdc <;> rfl
    rw [← hk'] at hi ⊢
    rw [packetFrames_getElem? _ _ _ _ _ _ _ hj hi, packetFrame, packetFragment, headerEncode_eq,
      fragment_encodeBlock hp hcdc (messageBlock_length _ _ _ _) hi, hblock]
    rfl
  case run =>
    rw [exec_txPacket_of_fits hfits hc hp hcdc htx, hn]
    rfl

/-- Settles O53: a scheme without a codec, then a packet beyond one of the limits. -/
theorem txPacketRefusesInOrder : Obligations.TxPacketRefusesInOrder := by
  intro s ec rf df1 c hfits hc
  refine ⟨fun hconv hnoFec => exec_txPacket_of_no_codec hfits hc (frameCodec_eq_none hconv hnoFec),
    fun himpl hbeyond => ?_⟩
  obtain ⟨cdc, hcdc⟩ := exists_frameCodec himpl
  refine exec_txPacket_of_not_fits hfits hc hcdc fun htx => ?_
  obtain ⟨hpacket, hcodewords, hfrags, hout⟩ := htx
  rcases hbeyond with h | h | h | h
  · exact absurd hpacket (Nat.not_le.2 h)
  · exact absurd hcodewords (Nat.not_le.2 h)
  · exact absurd hfrags (Nat.not_le.2 h)
  · exact absurd (hout.symm.trans h) (by decide)

end Sys2Proof.Machine

/-!
PROOFS. 45_mpdu_framer.md, the receive side: RX_DROP and RX_FLUSH (R179, R180), the frames RX_FRAME refuses and what it
does with one that passes its checks (R172 to R175), and that a packet's frames deliver it in any order (R181).

For R181 the frames are read by their places. While some place is missing, the state between two frames is described by
`Receiving`: one context on top of the `REASM` of before, which holds exactly the fragments of the places received
(`HoldsPlaces`) and the decodings of the full codewords (`DecodesFull`). A frame adds its place to that; the packet is
complete exactly when no place is missing.
-/

namespace Sys2Proof.Machine

/-! ### Finite maps -/

section Maps

variable {κ β : Type} {code : κ → Nat}

/-- The later of two writes to a key is the one that counts. -/
theorem mapInsert_mapInsert (k : κ) (v w : β) (m : List (κ × β)) :
    mapInsert code k v (mapInsert code k w m) = mapInsert code k v m := by
  induction m with
  | nil => simp [mapInsert]
  | cons e m ih =>
    by_cases hlt : code k < code e.1
    · simp [mapInsert, hlt]
    · by_cases heq : code k = code e.1
      · simp [mapInsert, heq]
      · simp [mapInsert, hlt, heq, ih]

theorem mapErase_of_none {k : κ} {m : List (κ × β)} (h : mapLookup code k m = none) : mapErase code k m = m := by
  induction m with
  | nil => rfl
  | cons e m ih =>
    rw [mapLookup_cons] at h
    split at h
    · cases h
    next hne => rw [mapErase, if_neg hne, ih h]

/-- A map in canonical form has no more entries than there are codes. -/
theorem length_le_of_code_lt {m : List (κ × β)} (hm : MapSorted code m) {n : Nat} (hn : ∀ k, code k < n) :
    m.length ≤ n := by
  have hcodes : (m.map fun e => code e.1).Nodup := List.Pairwise.map _ (fun _ _ h => h.ne) hm
  have hsubset : (m.map fun e => code e.1) ⊆ List.range n := by
    intro a ha
    obtain ⟨e, -, rfl⟩ := List.mem_map.1 ha
    exact List.mem_range.2 (hn e.1)
  simpa using (List.subperm_of_subset hcodes hsubset).length_le

end Maps

theorem ctxCode_lt (key : CtxKey) : ctxCode key < 2 ^ 18 := by
  have hupl := key.upl.isLt
  have hec := key.ec.isLt
  unfold ctxCode
  omega

/-! ### RX_DROP and RX_FLUSH (R179, R180) -/

section Drop

variable {s : State} {ec : BitVec 6} (hfits : ioFits s.params s.input.length = true)

include hfits

theorem exec_rxDrop_of_none (hkey : mapLookup ctxCode { upl := opaDropUpl s, ec := ec } s.reasm = none) :
    exec (.rxDrop ec) s = .next (s.complete 0 0 []) := by
  simp only [exec, execRxDrop, runCommand_of_fits hfits, hkey, reply_nil]

theorem exec_rxDrop_of_some {x : Context}
    (hkey : mapLookup ctxCode { upl := opaDropUpl s, ec := ec } s.reasm = some x) :
    exec (.rxDrop ec) s =
      .next ((s.setReasm (mapErase ctxCode { upl := opaDropUpl s, ec := ec } s.reasm)).complete 1 0 []) := by
  simp only [exec, execRxDrop, runCommand_of_fits hfits, hkey, finish_nil]

/-- Where there is no such context, erasing it changes nothing. -/
theorem rxDrop_reasm {t : State} (hexec : exec (.rxDrop ec) s = .next t) :
    t.reasm = mapErase ctxCode { upl := opaDropUpl s, ec := ec } s.reasm := by
  cases hkey : mapLookup ctxCode { upl := opaDropUpl s, ec := ec } s.reasm with
  | none =>
    obtain rfl := Host.Outcome.next.inj (hexec.symm.trans (exec_rxDrop_of_none hfits hkey))
    exact (mapErase_of_none hkey).symm
  | some x =>
    obtain rfl := Host.Outcome.next.inj (hexec.symm.trans (exec_rxDrop_of_some hfits hkey))
    rfl

theorem exec_rxFlush :
    exec .rxFlush s = .next ((s.setReasm []).complete (BitVec.ofNat 32 s.reasm.length) 0 []) := by
  simp only [exec, execRxFlush, runCommand_of_fits hfits, finish_nil]

end Drop

/-- Settles O60: an erasure of one key, in canonical form, and the number of keys there can be. -/
theorem dropAndFlushComplete : Obligations.DropAndFlushComplete := by
  intro s ec hfits
  refine ⟨exec_rxDrop_of_none hfits, fun x => exec_rxDrop_of_some hfits, exec_rxFlush hfits,
    fun hs => ⟨fun t hexec => ?_, length_le_of_code_lt hs.wf.1 ctxCode_lt⟩⟩
  rw [rxDrop_reasm hfits hexec]
  exact ⟨mapLookup_mapErase_self hs.wf.1 _,
    fun key hkey => mapLookup_mapErase_ne (fun hcode => hkey (ctxCode_injective hcode)) _⟩

/-! ### The frames RX_FRAME refuses (R172) -/

section Refusals

variable {s : State} {df1 : Bool} (hfits : ioFits s.params s.input.length = true)

include hfits

theorem exec_rxFrame_of_wrong_length (hlength : s.input.length ≠ frameOctets df1) :
    exec (.rxFrame df1) s =
      .next (s.raiseWith .badFormat 0 (hpackB 0 0 false false false false 0 (kindCode .rejected))) := by
  rw [exec_rxFrame, execRxFrame, runCommand_of_fits hfits]
  simp only [if_pos hlength]

variable (hlength : s.input.length = frameOctets df1) {h : HeaderDecoded}
  (hheader : headerDecode s.params.golayB df1 s.input = h) (hvalid : headerValid h = true)

include hlength hheader hvalid

theorem exec_rxFrame_of_unassigned (hc : schemeOf s.params h.fields.ec = none) :
    exec (.rxFrame df1) s = .next (rxReject s h .rejected .invalidScheme) := by
  rw [exec_rxFrame, execRxFrame, runCommand_of_fits hfits]
  simp only [if_neg (not_not.2 hlength), hheader, hvalid, Bool.not_true, Bool.false_eq_true, if_false, hc]

variable {c : Scheme} (hc : schemeOf s.params h.fields.ec = some c)

include hc

theorem exec_rxFrame_of_no_codec (hcdc : frameCodec c = none) :
    exec (.rxFrame df1) s = .next (rxReject s h .rejected .notImplemented) := by
  rw [exec_rxFrame, execRxFrame, runCommand_of_fits hfits]
  simp only [if_neg (not_not.2 hlength), hheader, hvalid, Bool.not_true, Bool.false_eq_true, if_false, hc, hcdc]

variable {cdc : FrameCodec} (hcdc : frameCodec c = some cdc)

include hcdc

theorem exec_rxFrame_of_out_of_range (hrange : fragsPerCodeword s.params c ≤ h.fields.cfi.toNat ∨
    codewordCount s.params c h.fields.upl.toNat ≤ h.fields.upfi.toNat) :
    exec (.rxFrame df1) s = .next (rxReject s h .rejected .badFormat) := by
  rw [exec_rxFrame, execRxFrame, runCommand_of_fits hfits]
  simp only [if_neg (not_not.2 hlength), hheader, hvalid, Bool.not_true, Bool.false_eq_true, if_false, hc, hcdc,
    if_pos hrange]

theorem exec_rxFrame_of_no_room (hcfi : h.fields.cfi.toNat < fragsPerCodeword s.params c)
    (hupfi : h.fields.upfi.toNat < codewordCount s.params c h.fields.upl.toNat)
    (hroom : openContext s { upl := h.fields.upl, ec := h.fields.ec } = none) :
    exec (.rxFrame df1) s = .next (rxReject s h .rejected .reassemblyFull) := by
  have hrange := not_or.2 ⟨Nat.not_le.2 hcfi, Nat.not_le.2 hupfi⟩
  rw [exec_rxFrame, execRxFrame, runCommand_of_fits hfits]
  simp only [if_neg (not_not.2 hlength), hheader, hvalid, Bool.not_true, Bool.false_eq_true, if_false, hc, hcdc,
    if_neg hrange, hroom]

end Refusals

theorem openContext_of_none {s : State} {key : CtxKey} (hkey : mapLookup ctxCode key s.reasm = none) :
    openContext s key = if reasmFull s.params s.reasm.length then none else some emptyContext := by
  rw [openContext, hkey]

/-- Settles O56: each refusal is the next check that fails when the ones before it hold. -/
theorem rxFrameRefusesInOrder : Obligations.RxFrameRefusesInOrder := by
  intro s df1 hfits
  refine ⟨fun hlength => exec_rxFrame_of_wrong_length hfits hlength, fun hlength => ?_⟩
  intro h r0 r1
  refine ⟨exec_rxFrame_of_corrupt hfits hlength rfl, fun hvalid =>
    ⟨exec_rxFrame_of_unassigned hfits hlength rfl hvalid, fun c hc =>
      ⟨fun hconv hnoFec =>
        exec_rxFrame_of_no_codec hfits hlength rfl hvalid hc (frameCodec_eq_none hconv hnoFec), fun himpl => ?_⟩⟩⟩
  obtain ⟨cdc, hcdc⟩ := exists_frameCodec himpl
  refine ⟨exec_rxFrame_of_out_of_range hfits hlength rfl hvalid hc hcdc, fun hcfi hupfi hkey ⟨m, hm, hfull⟩ => ?_⟩
  refine exec_rxFrame_of_no_room hfits hlength rfl hvalid hc hcdc hcfi hupfi ?_
  rw [openContext_of_none hkey, reasmFull, hm]
  exact if_pos (decide_eq_true hfull)

/-! ### The frames RX_FRAME accepts (R172 to R175) -/

theorem headerRes1_of_valid {h : HeaderDecoded} (hvalid : headerValid h = true) (kind : FrameKind) :
    headerRes1 h kind = hpackB h.fields.ec h.fields.rf true true true true h.uhf (kindCode kind) := by
  obtain ⟨⟨h0, h1⟩, h2⟩ : (h.ok0 = true ∧ h.ok1 = true) ∧ h.ok2 = true := by simpa [headerValid] using hvalid
  rw [headerRes1, hvalid, h0, h1, h2]

/-- Of the state only the scratch and the counter of free values can change. -/
theorem exists_scratchAfterStore_eq (p : Params) (c : Scheme) (cdc : FrameCodec) (x : Context) (upfi : BitVec 8)
    (s : State) : ∃ sc n, scratchAfterStore p c cdc x upfi s = { s with scratch := sc, freeIx := n } := by
  rcases scratchAfterStore_cases p c cdc x upfi s with ⟨h, -⟩ | h
  · exact ⟨_, _, h⟩
  · exact ⟨s.scratch, s.freeIx, h⟩

section Store

variable {s : State} {h : HeaderDecoded} {c : Scheme} {cdc : FrameCodec} {x : Context} {payload : Bytes}

/-- The fragment completes the packet: it is delivered, and its context deleted (R175). -/
theorem rxStore_of_complete (hp : legalParams s.params = true) {packet : Bytes}
    (hpacket : storedPacket s.params c h.fields.upl (storedContext s.params h c cdc x payload).dec = some packet) :
    ∃ sc n, rxStore s h c cdc x payload =
      ({ s with scratch := sc, freeIx := n }.setReasm
        (mapErase ctxCode { upl := h.fields.upl, ec := h.fields.ec } s.reasm)).complete
          (headerRes0 h) (headerRes1 h .packetReady) packet := by
  obtain ⟨sc, n, hscratch⟩ := exists_scratchAfterStore_eq s.params c cdc
    (putFragment x { upfi := h.fields.upfi, cfi := h.fields.cfi } payload) h.fields.upfi s
  have hout : ioFits s.params packet.length = true :=
    ioFits_of_legal hp (by have := storedPacket_length_le hpacket; have := h.fields.upl.isLt; omega)
  refine ⟨sc, n, ?_⟩
  rw [storedContext] at hpacket
  simp only [rxStore, hpacket, hscratch]
  exact finish_of_fits hout _ _ _

/-- The fragment leaves the packet incomplete: its context is kept (R174). -/
theorem rxStore_of_incomplete
    (hincomplete : storedPacket s.params c h.fields.upl (storedContext s.params h c cdc x payload).dec = none) :
    ∃ sc n, rxStore s h c cdc x payload =
      ({ s with scratch := sc, freeIx := n }.setReasm
        (mapInsert ctxCode { upl := h.fields.upl, ec := h.fields.ec } (storedContext s.params h c cdc x payload)
          s.reasm)).complete (headerRes0 h) (headerRes1 h .fragmentAccepted) [] := by
  obtain ⟨sc, n, hscratch⟩ := exists_scratchAfterStore_eq s.params c cdc
    (putFragment x { upfi := h.fields.upfi, cfi := h.fields.cfi } payload) h.fields.upfi s
  refine ⟨sc, n, ?_⟩
  rw [storedContext] at hincomplete
  simp only [rxStore, hincomplete, hscratch, finish_nil]
  rfl

end Store

/-- Settles O57: the frame passes every check, and storing it ends in one of the two ways. -/
theorem rxFrameCompletes : Obligations.RxFrameCompletes := by
  intro s df1 c cdc x hp hlength h key hvalid hc hcdc hcfi hupfi hcontext frag dec
  have hopen : openContext s key = some x := by
    rcases hcontext with hkey | ⟨hkey, hroom, rfl⟩
    · exact openContext_of_lookup hkey
    · rw [openContext_of_none hkey, hroom]
      rfl
  have hfits : ioFits s.params s.input.length = true :=
    ioFits_of_legal hp (by have := df1.toNat_le; omega)
  have haccepts : AcceptsFrame df1 s h c cdc x (s.input.drop (hdrLen + df1.toNat)) :=
    ⟨hfits, hlength, rfl, hvalid, rfl, hc, hcdc, hcfi, hupfi, hopen, drop_header_length hlength⟩
  have hstored : storedContext s.params h c cdc x (s.input.drop (hdrLen + df1.toNat)) =
      { frag := frag, dec := dec } := by
    change decodeCodeword s.params c cdc h.fields.upfi { frag := frag, dec := x.dec } = _
    cases hw : storedCodeword s.params c frag h.fields.upfi <;> simp only [decodeCodeword, dec, hw]
  have hres1 := headerRes1_of_valid (h := h) hvalid
  rw [exec_rxFrame_of_acceptsFrame haccepts]
  cases hpacket : storedPacket s.params c h.fields.upl dec with
  | some packet =>
    obtain ⟨sc, n, hstore⟩ := rxStore_of_complete hp (by rw [hstored]; exact hpacket)
    exact ⟨sc, n, by rw [hstore, hres1]; rfl⟩
  | none =>
    obtain ⟨sc, n, hstore⟩ := rxStore_of_incomplete (by rw [hstored]; exact hpacket)
    exact ⟨sc, n, by rw [hstore, hres1, hstored]; rfl⟩

/-- The slots of the context a fragment is stored in are those of the open context, if there is one (R173). -/
theorem mapLookup_openContext {s : State} {key : CtxKey} {x : Context} (hx : openContext s key = some x) (slot : Slot) :
    mapLookup slotCode slot x.frag =
      (mapLookup ctxCode key s.reasm).bind fun y => mapLookup slotCode slot y.frag := by
  cases hkey : mapLookup ctxCode key s.reasm with
  | some y =>
    obtain rfl := Option.some.inj ((openContext_of_lookup hkey).symm.trans hx)
    rfl
  | none =>
    rw [openContext_of_none hkey] at hx
    split at hx
    · cases hx
    · obtain rfl := Option.some.inj hx
      rfl

/-- Settles O58: two writes, of the slot in its context and of the context in `REASM`. -/
theorem acceptedFragmentFillsItsSlotOnly : Obligations.AcceptedFragmentFillsItsSlotOnly := by
  intro s t df1 _ hexec hstatus hkind
  obtain ⟨h, c, cdc, x, payload, hs, rfl⟩ := acceptsFrame_of_exec_rxFrame hexec hstatus
  have hkept := rxStore_keepsFragment (storedPacket_eq_none_of_rxStore hstatus hkind)
  obtain ⟨-, -, rfl, -, rfl, haccepts⟩ := hs
  intro fields key slot
  rw [hkept.reasm]
  refine ⟨⟨_, mapLookup_mapInsert_self _ _ _, ?_, fun slot' hslot => ?_⟩, fun key' hkey => ?_⟩
  · rw [storedContext_frag]
    exact mapLookup_mapInsert_self _ _ _
  · rw [storedContext_frag, ← mapLookup_openContext haccepts.room]
    exact mapLookup_mapInsert_ne (fun hcode => hslot (slotCode_injective hcode)) _ _
  · exact mapLookup_mapInsert_ne (fun hcode => hkey (ctxCode_injective hcode)) _ _

/-! ### A codeword and a packet put together again (R174, R175) -/

/-- Consecutive windows of `m` octets put together are the octets they are windows of. -/
theorem gather_windows {f : Nat → Option Bytes} {y : Bytes} {m n : Nat}
    (h : ∀ i < n, f i = some ((y.drop (i * m)).take m)) : gather f n = some (y.take (n * m)) := by
  induction n with
  | zero => rw [Nat.zero_mul]; rfl
  | succ n ih =>
    simp only [gather, ih fun i hi => h i (Nat.lt_succ_of_lt hi), h n (Nat.lt_succ_self n), ← List.take_add,
      Nat.succ_mul]

/-- The `k` fragments of a codeword put together are the codeword, less its padding (R174). -/
theorem gather_fragments {p : Params} {c : Scheme} {w : Bytes} (hw : w.length = codewordOctets p c)
    {f : Nat → Option Bytes} (h : ∀ i < fragsPerCodeword p c, f i = some (fragment p c w i)) :
    (gather f (fragsPerCodeword p c)).map (·.take (codewordOctets p c)) = some w := by
  have hle : codewordOctets p c ≤ fragsPerCodeword p c * mtu := codewordOctets_le_frags p c
  rw [gather_windows h, Option.map_some, List.take_take, Nat.min_eq_left hle, padOctets, List.take_left' hw]

theorem messageBlock_eq_window {p : Params} {c : Scheme} {x : Bytes} {n j : Nat} (hj : j < n)
    (hx : x.length ≤ n * blockOctets p c) :
    messageBlock p c x j =
      ((padOctets (n * blockOctets p c) x).drop (j * blockOctets p c)).take (blockOctets p c) := by
  have hwindow : j * blockOctets p c + blockOctets p c ≤ n * blockOctets p c := by
    rw [← Nat.succ_mul]
    exact Nat.mul_le_mul_right _ hj
  rw [messageBlock, padOctets, padOctets, List.drop_append, List.take_append, List.length_drop, zeroOctets, zeroOctets,
    List.drop_replicate, List.take_replicate, List.length_take, List.length_drop]
  congr 2
  omega

/-- The blocks of a packet put together are the packet, less its padding (R175). -/
theorem gather_blocks {p : Params} {c : Scheme} {x : Bytes} {n : Nat} (hx : x.length ≤ n * blockOctets p c)
    {f : Nat → Option Bytes} (h : ∀ j < n, f j = some (messageBlock p c x j)) :
    (gather f n).map (·.take x.length) = some x := by
  have hwindows : ∀ j < n, f j =
      some (((padOctets (n * blockOctets p c) x).drop (j * blockOctets p c)).take (blockOctets p c)) :=
    fun j hj => by rw [h j hj, messageBlock_eq_window hj hx]
  rw [gather_windows hwindows, Option.map_some, List.take_take, Nat.min_eq_left hx, padOctets, List.take_left' rfl]

/-- The codewords of a packet hold it (R165, R168). -/
theorem packet_length_le {p : Params} (hp : legalParams p = true) {c : Scheme} {cdc : FrameCodec}
    (hcdc : frameCodec c = some cdc) (len : Nat) : len ≤ codewordCount p c len * blockOctets p c := by
  have hwhole := eight_mul_blockOctets hp hcdc
  have hpos := (message_fits hp c).1
  have hcount : 8 * len ≤ messageBits p c * codewordCount p c len :=
    (ceilDiv_le_iff hpos).1 (Nat.le_max_right 1 _)
  rw [← hwhole, Nat.mul_assoc, Nat.mul_comm (blockOctets p c)] at hcount
  omega

/-! ### The frames of a packet at the receiver (R181) -/

/-- What TX_PACKET requires of a packet `x` and its scheme (R170), as the receiver needs it. -/
structure Sendable (p : Params) (ec : BitVec 6) (c : Scheme) (cdc : FrameCodec) (x : Bytes) : Prop where
  legal : legalParams p = true
  scheme : schemeOf p ec = some c
  codec : frameCodec c = some cdc
  packet : x.length ≤ 4095
  codewords : codewordCount p c x.length ≤ 256
  frags : fragsPerCodeword p c ≤ 128

/-- The key of a packet's context (R173). -/
def packetKey (ec : BitVec 6) (x : Bytes) : CtxKey := { upl := BitVec.ofNat 12 x.length, ec := ec }

/-- What the header of a packet's frame decodes to. -/
def sentHeader (ec : BitVec 6) (rf : BitVec 3) (df1 : Bool) (x : Bytes) (place : Nat × Nat) : HeaderDecoded :=
  { fields := frameHeader ec rf x.length place.1 place.2, ok0 := true, ok1 := true, ok2 := true,
    uhf := if df1 then 128 else 0 }

/-- A context holds, of the packet `x`, exactly the fragments of the places in `got`. -/
def HoldsPlaces (p : Params) (c : Scheme) (cdc : FrameCodec) (x : Bytes) (got : List (Nat × Nat)) (ctx : Context) :
    Prop :=
  ∀ place ∈ packetPlaces p c x.length, storedFragment ctx.frag (BitVec.ofNat 8 place.1) place.2 =
    if place ∈ got then some (packetFragment p c cdc x place) else none

/-- A fragment written into a slot is what that slot reads as, and no other does. -/
theorem storedFragment_mapInsert {j i j' i' : Nat} (hj : j < 256) (hi : i < 128) (hj' : j' < 256) (hi' : i' < 128)
    (payload : Bytes) (m : List (Slot × Bytes)) :
    storedFragment (mapInsert slotCode { upfi := BitVec.ofNat 8 j, cfi := BitVec.ofNat 7 i } payload m)
        (BitVec.ofNat 8 j') i' =
      if (j', i') = (j, i) then some payload else storedFragment m (BitVec.ofNat 8 j') i' := by
  rw [storedFragment, storedFragment, if_pos hi', if_pos hi']
  split
  next heq =>
    obtain ⟨rfl, rfl⟩ := Prod.mk.inj heq
    exact mapLookup_mapInsert_self _ _ _
  next hne =>
    refine mapLookup_mapInsert_ne (fun hcode => hne ?_) _ _
    obtain ⟨hupfi, hcfi⟩ := Slot.mk.inj (slotCode_injective hcode)
    have hupfi := congrArg BitVec.toNat hupfi
    have hcfi := congrArg BitVec.toNat hcfi
    rw [BitVec.toNat_ofNat, BitVec.toNat_ofNat] at hupfi hcfi
    rw [Prod.mk.injEq]
    omega

section Reception

variable {p : Params} {ec : BitVec 6} {c : Scheme} {cdc : FrameCodec} {x : Bytes} (hx : Sendable p ec c cdc x)

include hx

theorem Sendable.toNat_upl : (BitVec.ofNat 12 x.length).toNat = x.length := by
  rw [BitVec.toNat_ofNat]
  have := hx.packet
  omega

theorem Sendable.place_lt {place : Nat × Nat} (hplace : place ∈ packetPlaces p c x.length) :
    place.1 < codewordCount p c x.length ∧ place.2 < fragsPerCodeword p c ∧ place.1 < 256 ∧ place.2 < 128 := by
  obtain ⟨hj, hi⟩ := mem_packetPlaces.1 hplace
  exact ⟨hj, hi, hj.trans_le hx.codewords, hi.trans_le hx.frags⟩

/-- A frame of a packet passes every check, given room for the context (R172). -/
theorem Sendable.acceptsFrame (rf : BitVec 3) (df1 : Bool) {place : Nat × Nat}
    (hplace : place ∈ packetPlaces p c x.length) {u : State} (hu : u.params = p) {ctx : Context}
    (hopen : openContext u (packetKey ec x) = some ctx) :
    AcceptsFrame df1 (withInput u (packetFrame p c cdc ec rf df1 x place)) (sentHeader ec rf df1 x place) c cdc ctx
      (packetFragment p c cdc x place) := by
  subst hu
  obtain ⟨hj, hi, hj256, hi128⟩ := hx.place_lt hplace
  have hlength := packetFrame_length hx.legal hx.codec ec rf df1 x hi
  have hfits : ioFits u.params (packetFrame u.params c cdc ec rf df1 x place).length = true :=
    ioFits_of_legal hx.legal (by have := df1.toNat_le; simp only [hlength, frameOctets, mpduLen]; omega)
  have hcfi : (BitVec.ofNat 7 place.2).toNat = place.2 := by rw [BitVec.toNat_ofNat]; omega
  have hupfi : (BitVec.ofNat 8 place.1).toNat = place.1 := by rw [BitVec.toNat_ofNat]; omega
  refine ⟨hfits, hlength, headerDecode_headerEncode (golayMatrixOk_of_legal hx.legal) df1 _ _, rfl,
    List.drop_left' (headerEncode_length _ _ _), hx.scheme, hx.codec, hcfi.trans_lt hi, ?_, hopen,
    packetFragment_length hx.legal hx.codec x hi⟩
  exact hupfi.trans_lt (hj.trans_eq (congrArg (codewordCount u.params c) hx.toNat_upl.symm))

/-- Storing a frame's fragment adds its place to those held. -/
theorem HoldsPlaces.store {got : List (Nat × Nat)} {ctx : Context} (hctx : HoldsPlaces p c cdc x got ctx)
    (rf : BitVec 3) (df1 : Bool) {place : Nat × Nat} (hplace : place ∈ packetPlaces p c x.length) :
    HoldsPlaces p c cdc x (place :: got)
      (storedContext p (sentHeader ec rf df1 x place) c cdc ctx (packetFragment p c cdc x place)) := by
  intro place' hplace'
  obtain ⟨-, -, hj, hi⟩ := hx.place_lt hplace
  obtain ⟨-, -, hj', hi'⟩ := hx.place_lt hplace'
  rw [storedContext_frag]
  refine (storedFragment_mapInsert hj hi hj' hi' _ _).trans ?_
  by_cases heq : place' = place
  · simp [heq]
  · simp [heq, hctx place' hplace']

variable {got : List (Nat × Nat)} {ctx : Context} (hctx : HoldsPlaces p c cdc x got ctx)
  (hdec : DecodesFull p c cdc ctx)

include hctx hdec

/-- A codeword with no place missing is decoded to its block. -/
theorem storedMessage_of_all {j : Nat} (hj : j < codewordCount p c x.length)
    (hall : ∀ i < fragsPerCodeword p c, (j, i) ∈ got) : storedMessage ctx.dec j = some (messageBlock p c x j) := by
  have hblock := messageBlock_length p c x j
  have hfragments : ∀ i < fragsPerCodeword p c, storedFragment ctx.frag (BitVec.ofNat 8 j) i =
      some (fragment p c (encodeBlock p c cdc (messageBlock p c x j)) i) := fun i hi => by
    rw [hctx (j, i) (mem_packetPlaces.2 ⟨hj, hi⟩), if_pos (hall i hi)]
    rfl
  rw [storedMessage, if_pos (hj.trans_le hx.codewords), hdec, storedCodeword,
    gather_fragments (encodeBlock_length hx.legal hx.codec hblock) hfragments, Option.map_some,
    decodeBlock_encodeBlock hx.legal hx.codec hblock]

omit hx in
/-- A codeword with a place missing is not decoded. -/
theorem storedMessage_of_missing {place : Nat × Nat} (hplace : place ∈ packetPlaces p c x.length)
    (hmissing : place ∉ got) : storedMessage ctx.dec place.1 = none := by
  have hcodeword : storedCodeword p c ctx.frag (BitVec.ofNat 8 place.1) = none := by
    rw [← Option.not_isSome_iff_eq_none, storedCodeword_isSome_iff]
    intro hfull
    have hfragment := hfull place.2 (mem_packetPlaces.1 hplace).2
    rw [hctx place hplace, if_neg hmissing] at hfragment
    cases hfragment
  rw [storedMessage, hdec, hcodeword]
  exact ite_self none

/-- With no place missing the packet is complete (R175). -/
theorem storedPacket_of_all (hall : ∀ place ∈ packetPlaces p c x.length, place ∈ got) :
    storedPacket p c (BitVec.ofNat 12 x.length) ctx.dec = some x := by
  rw [storedPacket, hx.toNat_upl]
  exact gather_blocks (packet_length_le hx.legal hx.codec x.length) fun j hj =>
    storedMessage_of_all hx hctx hdec hj fun i hi => hall (j, i) (mem_packetPlaces.2 ⟨hj, hi⟩)

/-- With a place missing it is not. -/
theorem storedPacket_of_missing {place : Nat × Nat} (hplace : place ∈ packetPlaces p c x.length)
    (hmissing : place ∉ got) : storedPacket p c (BitVec.ofNat 12 x.length) ctx.dec = none := by
  rw [storedPacket, hx.toNat_upl, Option.map_eq_none_iff, ← Option.not_isSome_iff_eq_none, gather_isSome_iff]
  intro hfull
  have hmessage := hfull place.1 (mem_packetPlaces.1 hplace).1
  rw [storedMessage_of_missing hctx hdec hplace hmissing] at hmessage
  cases hmessage

end Reception

/-- The state after the frames of the places in `got`, while the packet is incomplete, on top of the `REASM` of before,
`m`. -/
structure Receiving (p : Params) (ec : BitVec 6) (c : Scheme) (cdc : FrameCodec) (x : Bytes)
    (m : List (CtxKey × Context)) (got : List (Nat × Nat)) (u : State) : Prop where
  params : u.params = p
  reasm : u.reasm = m ∨ ∃ y, u.reasm = mapInsert ctxCode (packetKey ec x) y m
  context : ∃ ctx, openContext u (packetKey ec x) = some ctx ∧ HoldsPlaces p c cdc x got ctx ∧ DecodesFull p c cdc ctx

section Receiving

variable {p : Params} {ec : BitVec 6} {c : Scheme} {cdc : FrameCodec} {x : Bytes} (hx : Sendable p ec c cdc x)
  {m : List (CtxKey × Context)}

include hx

/-- Before the first frame: no context of the packet's key, and room for one. -/
theorem receiving_nil {u : State} (hu : u.params = p) (hkey : mapLookup ctxCode (packetKey ec x) u.reasm = none)
    (hroom : reasmFull u.params u.reasm.length = false) : Receiving p ec c cdc x u.reasm [] u := by
  refine ⟨hu, .inl rfl, emptyContext, ?_, fun place _ => ?_, fun j => ?_⟩
  · rw [openContext_of_none hkey, hroom]
    rfl
  · exact ite_self none
  · rw [emptyContext, storedCodeword_nil (fragsPerCodeword_pos hx.legal c)]
    rfl

variable {got : List (Nat × Nat)} {u : State} (hu : Receiving p ec c cdc x m got u) (rf : BitVec 3) (df1 : Bool)
  {place : Nat × Nat} (hplace : place ∈ packetPlaces p c x.length)

include hu hplace

/-- A frame of the packet passes every check, and storing its fragment adds its place. -/
theorem Receiving.stores :
    ∃ ctx, exec (.rxFrame df1) (withInput u (packetFrame p c cdc ec rf df1 x place)) =
        .next (rxStore (withInput u (packetFrame p c cdc ec rf df1 x place)) (sentHeader ec rf df1 x place) c cdc ctx
          (packetFragment p c cdc x place)) ∧
      let ctx2 := storedContext p (sentHeader ec rf df1 x place) c cdc ctx (packetFragment p c cdc x place)
      HoldsPlaces p c cdc x (place :: got) ctx2 ∧ DecodesFull p c cdc ctx2 := by
  obtain ⟨hparams, -, ctx, hopen, hctx, hdec⟩ := hu
  exact ⟨ctx, exec_rxFrame_of_acceptsFrame (hx.acceptsFrame rf df1 hplace hparams hopen), hctx.store hx rf df1 hplace,
    decodesFull_store hdec _ _⟩

/-- A frame of the packet that leaves a place missing is accepted (kind 0). -/
theorem Receiving.accepts {missing : Nat × Nat} (hmissing : missing ∈ packetPlaces p c x.length)
    (hne : missing ∉ place :: got) :
    ∃ v, exec (.rxFrame df1) (withInput u (packetFrame p c cdc ec rf df1 x place)) = .next v ∧ v.status = 0 ∧
      res1Kind v = 0 ∧ v.out = [] ∧ Receiving p ec c cdc x m (place :: got) v := by
  obtain ⟨ctx, hexec, hctx, hdec⟩ := hu.stores hx rf df1 hplace
  obtain ⟨rfl, hreasm, -⟩ := hu
  have hkept := rxStore_keepsFragment (s := withInput u (packetFrame u.params c cdc ec rf df1 x place))
    (h := sentHeader ec rf df1 x place) (storedPacket_of_missing hx hctx hdec hmissing hne)
  obtain ⟨-, -, -, hparams, -⟩ := rxStore_frame (withInput u (packetFrame u.params c cdc ec rf df1 x place))
    (sentHeader ec rf df1 x place) c cdc ctx (packetFragment u.params c cdc x place)
  have hwrite : ∀ z, mapInsert ctxCode (packetKey ec x) z u.reasm = mapInsert ctxCode (packetKey ec x) z m := by
    intro z
    rcases hreasm with hreasm | ⟨y, hreasm⟩
    · rw [hreasm]
    · rw [hreasm, mapInsert_mapInsert]
  refine ⟨_, hexec, hkept.status, ?kind, hkept.out, hparams, .inr ⟨_, hkept.reasm.trans (hwrite _)⟩, _, ?context, hctx,
    hdec⟩
  case kind =>
    rw [res1Kind, hkept.res1]
    exact extract_kind_hpackB _ _ _ _ _ _ _ _
  case context =>
    refine openContext_of_lookup ?_
    rw [hkept.reasm]
    exact mapLookup_mapInsert_self _ _ _

/-- The frame of the last missing place delivers the packet (kind 1) and leaves `REASM` as it was. -/
theorem Receiving.delivers (hkey : mapLookup ctxCode (packetKey ec x) m = none)
    (hall : ∀ place' ∈ packetPlaces p c x.length, place' ∈ place :: got) :
    ∃ v, exec (.rxFrame df1) (withInput u (packetFrame p c cdc ec rf df1 x place)) = .next v ∧ v.status = 0 ∧
      res1Kind v = 1 ∧ v.out = x ∧ v.reasm = m := by
  obtain ⟨ctx, hexec, hctx, hdec⟩ := hu.stores hx rf df1 hplace
  obtain ⟨rfl, hreasm, -⟩ := hu
  obtain ⟨sc, n, hstore⟩ := rxStore_of_complete (s := withInput u (packetFrame u.params c cdc ec rf df1 x place))
    (h := sentHeader ec rf df1 x place) hx.legal (storedPacket_of_all hx hctx hdec hall)
  have herase : mapErase ctxCode (packetKey ec x) u.reasm = m := by
    rcases hreasm with hreasm | ⟨y, hreasm⟩
    · rw [hreasm, mapErase_of_none hkey]
    · rw [hreasm, mapErase_mapInsert_of_none hkey]
  exact ⟨_, hexec.trans (congrArg _ hstore), rfl, res1Kind_complete_headerRes1 _ _ _ _ _, rfl, herase⟩

omit hu hplace in
/-- Any frames of the packet that leave a place missing are accepted, one after the other. -/
theorem Receiving.receiveAll {missing : Nat × Nat} (hmissing : missing ∈ packetPlaces p c x.length)
    {todo : List (Nat × Nat)} (htodo : ∀ place ∈ todo, place ∈ packetPlaces p c x.length) (hnotTodo : missing ∉ todo)
    {got : List (Nat × Nat)} (hnotGot : missing ∉ got) {u : State} (hu : Receiving p ec c cdc x m got u) :
    ∃ v, Machine.receiveAll df1 u (todo.map (packetFrame p c cdc ec rf df1 x)) = some v ∧
      Receiving p ec c cdc x m (todo.reverse ++ got) v := by
  induction todo generalizing got u with
  | nil => exact ⟨u, rfl, hu⟩
  | cons place todo ih =>
    obtain ⟨hplace, htodo⟩ := List.forall_mem_cons.1 htodo
    have hnotGot2 : missing ∉ place :: got :=
      List.not_mem_cons_of_ne_of_not_mem (List.ne_of_not_mem_cons hnotTodo) hnotGot
    obtain ⟨w, hexec, -, -, -, hw⟩ := hu.accepts hx rf df1 hplace hmissing hnotGot2
    obtain ⟨v, hrest, hv⟩ := ih htodo (List.not_mem_of_not_mem_cons hnotTodo) hnotGot2 hw
    refine ⟨v, ?_, ?_⟩
    · rw [List.map_cons, Machine.receiveAll, hexec]
      exact hrest
    · rwa [List.reverse_cons, List.append_assoc]

end Receiving

/-- A reordering of a list's images is the images of a reordering of the list. -/
theorem exists_perm_of_perm_map {α β : Type} {f : α → β} {l : List β} {l' : List α} (h : l.Perm (l'.map f)) :
    ∃ l'' : List α, l = l''.map f ∧ l''.Perm l' :=
  (congrFun (congrFun (List.eq_map_comp_perm f) l) l').mpr h

/-- Settles O55: the frames stand at the places in some order; all but the last leave the last place missing. -/
theorem packetRoundTripInAnyOrder : Obligations.PacketRoundTripInAnyOrder := by
  intro s t ec rf df1 before after f hp hexec hstatus hkey hroom hperm
  obtain ⟨c, cdc, hc, hcdc, htx, rfl⟩ := txPacket_ok hp hexec hstatus
  have hx : Sendable s.params ec c cdc s.input := ⟨hp, hc, hcdc, htx.packet, htx.codewords, htx.frags⟩
  have hcount : (BitVec.ofNat 32 (frameTotal s.params c s.input.length)).toNat = frameTotal s.params c s.input.length :=
    Nat.mod_eq_of_lt ((Nat.mul_le_mul htx.codewords htx.frags).trans_lt (by decide))
  have hsize : (BitVec.ofNat 32 (frameOctets df1)).toNat = frameOctets df1 := by cases df1 <;> rfl
  rw [complete_res0, complete_res1, complete_out, hcount, hsize, cutFrames_packetFrames hp hcdc,
    packetFrames_eq_map] at hperm
  obtain ⟨places, hmap, hplaces⟩ := exists_perm_of_perm_map hperm
  obtain ⟨got, rest, rfl, rfl, hrest⟩ := List.map_eq_append_iff.1 hmap.symm
  obtain ⟨place, todo, rfl, rfl, rfl⟩ := List.map_eq_cons_iff.1 hrest
  have hmem : ∀ q, q ∈ got ++ place :: todo ↔ q ∈ packetPlaces s.params c s.input.length := fun q => hplaces.mem_iff
  have hplace := (hmem place).1 (by simp)
  have hnodup : (place :: (got ++ todo)).Nodup :=
    List.nodup_middle.1 (hplaces.nodup_iff.2 (packetPlaces_nodup _ _ _))
  obtain ⟨hfresh, hnodup⟩ := List.nodup_cons.1 hnodup
  rw [List.mem_append, not_or] at hfresh
  obtain ⟨u, hu, hreceiving⟩ := Receiving.receiveAll hx rf df1 hplace
    (fun q hq => (hmem q).1 (List.mem_append_left _ hq)) hfresh.1 List.not_mem_nil
    (receiving_nil hx (u := s.complete _ _ _) rfl hkey hroom)
  refine ⟨u, ?_⟩
  cases todo with
  | nil =>
    obtain ⟨v, hv, hvstatus, hkind, hout, hreasm⟩ := hreceiving.delivers hx rf df1 hplace hkey fun q hq => by
      have := (hmem q).2 hq
      simp only [List.mem_append, List.mem_cons, List.mem_reverse, List.not_mem_nil] at this ⊢
      tauto
    exact ⟨v, hu, hv, hvstatus, fun hafter => absurd rfl hafter, fun _ => ⟨hkind, hout, hreasm⟩⟩
  | cons q todo =>
    have hq : q ∉ place :: (got.reverse ++ []) := by
      have hne : q ≠ place := fun h => hfresh.2 (h ▸ List.mem_cons_self)
      have hnotGot : q ∉ got := fun h => List.disjoint_of_nodup_append hnodup h List.mem_cons_self
      simp [hne, hnotGot]
    obtain ⟨v, hv, hvstatus, hkind, hout, -⟩ := hreceiving.accepts hx rf df1 hplace ((hmem q).1 (by simp)) hq
    exact ⟨v, hu, hv, hvstatus, fun _ => ⟨hkind, hout⟩, fun hafter => absurd hafter (List.cons_ne_nil _ _)⟩

end Sys2Proof.Machine

/-!
PROOFS. 60_exceptions.md: the error rule with its exceptions (R191), and the input bound before every other check (R192).

Each command is `runCommand` of a body of its own (`exec_eq_runCommand`), so an `IN` that is too long never reaches the
body. `EndsByErrorRule` says what is left after a command that does not end with `OK`: the state before it with a status
raised, and for CONV_INIT, SCHEME_RATE and RX_FRAME what R191 lets them write besides.
-/

namespace Sys2Proof.Machine

/-! ### The input bound (R192) -/

/-- Every command checks the length of `IN` before it does anything of its own. -/
theorem exec_eq_runCommand (i : Instr) : ∃ body : State → State, ∀ s, exec i s = runCommand s body := by
  cases i <;> exact ⟨_, fun _ => rfl⟩

theorem exec_of_not_fits {s : State} (h : ioFits s.params s.input.length = false) (i : Instr) :
    exec i s = .next (s.raise .badFormat) := by
  obtain ⟨body, hbody⟩ := exec_eq_runCommand i
  rw [hbody, runCommand_of_not_fits h]

theorem ioFits_eq_false_of_lt {p : Params} {m n : Nat} (hm : p.ioMax = some m) (hn : m < n) : ioFits p n = false := by
  simp [ioFits, hm, hn]

/-! ### The error rule (R191) -/

/-- How a command may end: with `OK`, or with a status raised in the state before it and both results 0. The exceptions
are CONV_INIT, which writes `CODEC` first; SCHEME_RATE, whose InvalidScheme answers the rate code of no rate; and RX_FRAME,
which reports a header and a kind. -/
inductive EndsByErrorRule (s : State) : Instr → State → Prop
  | succeeds {i : Instr} {t : State} (hok : t.status = 0) : EndsByErrorRule s i t
  | raises {i : Instr} (e : Status) (hrate : ∀ ec, i = .schemeRate ec → e ≠ .invalidScheme) :
    EndsByErrorRule s i (s.raise e)
  | initFails (ec : BitVec 6) (codec : BitVec 7) (e : Status) :
    EndsByErrorRule s (.convInit ec) ((s.setCodec codec).raise e)
  | rateUnknown (ec : BitVec 6) : EndsByErrorRule s (.schemeRate ec) (s.raiseWith .invalidScheme (rateCode .bad) 0)
  | frameRefused (df1 : Bool) (e : Status) (r0 r1 : Word) : EndsByErrorRule s (.rxFrame df1) (s.raiseWith e r0 r1)

theorem endsByErrorRule_badFormat (s : State) (i : Instr) : EndsByErrorRule s i (s.raise .badFormat) :=
  .raises .badFormat fun _ _ => by decide

theorem endsByErrorRule_finish (s s' : State) (i : Instr) (r0 r1 : Word) (out : Bytes) :
    EndsByErrorRule s i (s.finish s' r0 r1 out) := by
  rcases finish_cases s s' r0 r1 out with ⟨-, h⟩ | ⟨-, h⟩ <;> rw [h]
  · exact .succeeds rfl
  · exact endsByErrorRule_badFormat s i

theorem endsByErrorRule_reply (s : State) (i : Instr) (r0 r1 : Word) (out : Bytes) :
    EndsByErrorRule s i (s.reply r0 r1 out) :=
  endsByErrorRule_finish s s i r0 r1 out

/-- Whatever next state the command has, it ends by the error rule there. -/
def FollowsErrorRule (s : State) (i : Instr) (o : Host.Outcome State Fault Refusal) : Prop :=
  ∀ t, o = .next t → EndsByErrorRule s i t

/-- A command is left with its own body to look at: the check of `IN` before it raises BadFormat. -/
theorem runCommand_followsErrorRule {s : State} {i : Instr} {body : State → State}
    (h : EndsByErrorRule s i (body s)) : FollowsErrorRule s i (runCommand s body) := by
  intro t hexec
  obtain ⟨u, hu, hcases⟩ := runCommand_next s body
  obtain rfl := Host.Outcome.next.inj (hu.symm.trans hexec)
  rcases hcases with ⟨-, rfl⟩ | ⟨-, rfl⟩
  · exact h
  · exact endsByErrorRule_badFormat s i

/-- RX_FRAME writes its results alone, or stores the fragment, which completes unless the packet does not fit `OUT`. -/
theorem exec_rxFrame_followsErrorRule (df1 : Bool) (s : State) :
    FollowsErrorRule s (.rxFrame df1) (exec (.rxFrame df1) s) := by
  intro t hexec
  cases exec_effect hexec with
  | answers ht =>
    cases ht with
    | completes r0 r1 hout => exact .succeeds rfl
    | raises e r0 r1 => exact .frameRefused df1 e r0 r1
  | @stores _ h c cdc x payload ha =>
    rcases rxStore_cases s h c cdc x payload with ⟨packet, -, ⟨-, ht⟩ | ⟨-, ht⟩⟩ | ⟨-, ht⟩ <;> rw [ht]
    · exact .succeeds rfl
    · exact endsByErrorRule_badFormat s _
    · exact .succeeds rfl

/-- The commands by the shape of their bodies: an answer, an answer on either side of a test, an answer after one
refusal or several, and the three exceptions. -/
theorem exec_followsErrorRule (i : Instr) (s : State) : FollowsErrorRule s i (exec i s) := by
  cases i with
  | golayEnc | golayDec | golay3Enc | hdrEnc ec rf df1 | rxFlush =>
    apply runCommand_followsErrorRule
    exact endsByErrorRule_finish s _ _ _ _ _
  | convEnc | vitDec | rxDrop ec =>
    apply runCommand_followsErrorRule
    dsimp only
    split
    · exact endsByErrorRule_finish s _ _ _ _ _
    · exact endsByErrorRule_finish s _ _ _ _ _
  | golay3Dec | schemeValid | schemeCwBits ec | schemeMsgBits ec | hdrDec df1 | frameCount ec =>
    apply runCommand_followsErrorRule
    split
    · exact .raises _ nofun
    · exact endsByErrorRule_reply s _ _ _ _
  | schemeNumFrags ec =>
    apply runCommand_followsErrorRule
    split
    · exact .raises _ nofun
    split
    · exact .raises _ nofun
    · exact endsByErrorRule_reply s _ _ _ _
  | ppduRepack st dt =>
    apply runCommand_followsErrorRule
    split_ifs
    · exact .raises _ nofun
    · exact .raises _ nofun
    · exact .raises _ nofun
    · exact endsByErrorRule_reply s _ _ _ _
  | txPacket ec rf df1 =>
    apply runCommand_followsErrorRule
    split
    · exact .raises _ nofun
    split
    · exact .raises _ nofun
    dsimp only
    split_ifs
    · exact .raises _ nofun
    · exact .raises _ nofun
    · exact endsByErrorRule_reply s _ _ _ _
  | convInit ec =>
    apply runCommand_followsErrorRule
    split
    · exact .initFails ec _ _
    · exact endsByErrorRule_finish s _ _ _ _ _
    · exact .initFails ec _ _
  | schemeRate ec =>
    apply runCommand_followsErrorRule
    split
    · exact .rateUnknown ec
    · exact endsByErrorRule_reply s _ _ _ _
  | rxFrame df1 => exact exec_rxFrame_followsErrorRule df1 s

theorem eq_invalidScheme_of_statusCode {e : Status} (h : statusCode e = 1) : e = .invalidScheme := by
  revert h
  cases e <;> decide

/-! ### The obligations -/

/-- Settles O13: what each case of `EndsByErrorRule` leaves, the ends with `OK` excluded. -/
theorem errorsWriteOnlyTheResults : Obligations.ErrorsWriteOnlyTheResults := by
  intro i s t hexec herror
  cases exec_followsErrorRule i s t hexec with
  | succeeds hok => exact absurd hok herror
  | raises e hrate =>
    have hother : ∀ ec, i = .schemeRate ec → (s.raise e).status ≠ 1 := fun ec hi hone =>
      hrate ec hi (eq_invalidScheme_of_statusCode hone)
    exact ⟨rfl, rfl, rfl, rfl, fun _ => rfl, fun _ _ => ⟨rfl, rfl⟩, fun ec hi hone => absurd hone (hother ec hi)⟩
  | initFails ec codec e =>
    exact ⟨rfl, rfl, rfl, rfl, fun hi => absurd rfl (hi ec), fun _ _ => ⟨rfl, rfl⟩, nofun⟩
  | rateUnknown ec => exact ⟨rfl, rfl, rfl, rfl, fun _ => rfl, fun hi => absurd rfl (hi ec), fun _ _ _ => ⟨rfl, rfl⟩⟩
  | frameRefused df1 e r0 r1 => exact ⟨rfl, rfl, rfl, rfl, fun _ => rfl, fun _ hi => absurd rfl (hi df1), nofun⟩

/-- Settles O14: every command is `runCommand` of some body, and `runCommand` looks at the length first. -/
theorem oversizeInputIsBadFormat : Obligations.OversizeInputIsBadFormat :=
  fun i _ _ hbound hlong => exec_of_not_fits (ioFits_eq_false_of_lt hbound hlong) i

end Sys2Proof.Machine

/-!
PROOFS. 70_reset_and_hazards.md: what a reset leaves (R210), which instances are refused (R211), a warm reset and the way
to its values without one (R212), and that the results are a function of the inputs (R218).

R218 compares two states that agree on everything a command reads (`SameInputs`). Each shared operation, given two such
states, either leaves two such states again or ends the command with the same results in both; a command's body takes the
same branch in both, since its tests read nothing else. A count that does not fit its register is a function of the count
(log 16), so it is the same word on both sides too.
-/

namespace Sys2Proof.Machine

/-! ### Legal and illegal instances (R211) -/

theorem step_of_illegal {s : State} (hp : legalParams s.params = false) : step s = .refused .illegalInstance := by
  rw [step, hp]
  rfl

/-- Settles O9: a step of a legal instance ends with a status; the refusal is the step's other branch. -/
theorem onlyIllegalInstancesAreRefused : Obligations.OnlyIllegalInstancesAreRefused := by
  refine fun s => ⟨fun hp => ?_, step_of_illegal⟩
  obtain ⟨t, ht, -⟩ := step_endsWithLegalStatus hp
  exact ⟨t, ht⟩

/-! ### Reset and warm reset (R210, R212) -/

/-- Settles O10: the fields of `resetWith`; the default parameters are those of the table. -/
theorem resetLeavesTheStatedValues : Obligations.ResetLeavesTheStatedValues :=
  ⟨fun p => ⟨resetWith_status p, resetWith_res0 p, resetWith_res1 p, resetWith_out p, by simp, by simp,
    resetWith_reasm p, resetWith_params p⟩, rfl⟩

theorem exec_convInit_of_unassigned {s : State} {ec : BitVec 6} (hfits : ioFits s.params s.input.length = true)
    (hec : schemeOf s.params ec = none) :
    exec (.convInit ec) s = .next ((s.setCodec (packCodec false ec)).raise .invalidScheme) := by
  obtain ⟨hrefused, -, -⟩ := convInitWritesTheCodecRegister s ec hfits
  exact hrefused hec

/-- Settles O11: RX_FLUSH leaves `REASM` empty and `IN` and the parameters as they are, so CONV_INIT after it refuses the
same code, and with that leaves `INIT` clear. -/
theorem warmResetOrFlushAndFailedInitClears : Obligations.WarmResetOrFlushAndFailedInitClears :=
  fun _ => ⟨by simp, fun ec hfits hec =>
    ⟨_, _, exec_rxFlush hfits, exec_convInit_of_unassigned hfits hec, rfl, codecInit_packCodec false ec,
      codecScheme_packCodec false ec⟩⟩

/-! ### Two states with the same inputs (R218) -/

/-- Two states agree on everything R218 lets a command read. -/
structure SameInputs (s s' : State) : Prop where
  cmd : s'.cmd = s.cmd
  opa : s'.opa = s.opa
  input : s'.input = s.input
  codec : s'.codec = s.codec
  reasm : s'.reasm = s.reasm
  params : s'.params = s.params

/-- Two states agree on everything R218 says of the state after a command. -/
structure SameEffects (t t' : State) : Prop extends SameResults t t' where
  codec : t'.codec = t.codec
  reasm : t'.reasm = t.reasm

/-- Two outcomes are next states that agree on everything R218 speaks of. -/
def SameOutcomes (o o' : Host.Outcome State Fault Refusal) : Prop :=
  ∃ t t', o = .next t ∧ o' = .next t' ∧ SameEffects t t'

namespace SameInputs

variable {s s' : State} (h : SameInputs s s')

include h

theorem setCodec (c : BitVec 7) : SameInputs (s.setCodec c) (s'.setCodec c) := { h with codec := rfl }

theorem setReasm (m : List (CtxKey × Context)) : SameInputs (s.setReasm m) (s'.setReasm m) := { h with reasm := rfl }

/-- The scratch and the counter of free values are not among the inputs (10_state.md R29; log 4). -/
theorem leaveScratch : SameInputs s.leaveScratch s'.leaveScratch := { h with }

theorem scratchAfterStore_sameInputs (p : Params) (c : Scheme) (cdc : FrameCodec) (x : Context) (upfi : BitVec 8) :
    SameInputs (scratchAfterStore p c cdc x upfi s) (scratchAfterStore p c cdc x upfi s') := by
  unfold scratchAfterStore
  split
  · exact h.leaveScratch
  · exact h

theorem complete (r0 r1 : Word) (out : Bytes) : SameEffects (s.complete r0 r1 out) (s'.complete r0 r1 out) :=
  ⟨⟨rfl, rfl, rfl, rfl⟩, h.codec, h.reasm⟩

theorem raiseWith (e : Status) (r0 r1 : Word) : SameEffects (s.raiseWith e r0 r1) (s'.raiseWith e r0 r1) :=
  ⟨⟨rfl, rfl, rfl, rfl⟩, h.codec, h.reasm⟩

theorem raise (e : Status) : SameEffects (s.raise e) (s'.raise e) := h.raiseWith e 0 0

/-- Whether `OUT` fits depends on the parameters, so both commands end in the same way (60_exceptions.md R192). -/
theorem finish {w w' : State} (hw : SameInputs w w') (r0 r1 : Word) (out : Bytes) :
    SameEffects (s.finish w r0 r1 out) (s'.finish w' r0 r1 out) := by
  unfold State.finish
  rw [h.params]
  split
  · exact hw.complete r0 r1 out
  · exact h.raise .badFormat

theorem reply (r0 r1 : Word) (out : Bytes) : SameEffects (s.reply r0 r1 out) (s'.reply r0 r1 out) :=
  h.finish h r0 r1 out

/-- Bodies with the same effects make commands with the same outcomes: both refuse an `IN` that is too long. -/
theorem runCommand_sameOutcomes {body : State → State} (hbody : SameEffects (body s) (body s')) :
    SameOutcomes (runCommand s body) (runCommand s' body) := by
  refine ⟨_, _, rfl, rfl, ?_⟩
  rw [h.params, h.input]
  split
  · exact hbody
  · exact h.raise .badFormat

/-! The operands that stand in the condition of an `if`, each as a whole. -/

theorem opaSchemeCode_eq : opaSchemeCode s' = opaSchemeCode s := congrArg BitVec.toNat h.opa

theorem opaPayload_eq : opaPayload s' = opaPayload s := congrArg BitVec.toNat h.opa

theorem opaBitLength_eq : opaBitLength s' = opaBitLength s := congrArg BitVec.toNat h.opa

theorem openContext_eq (key : CtxKey) : openContext s' key = openContext s key := by
  rw [openContext, openContext, h.reasm, h.params]

/-- A fragment is stored, decoded and delivered alike; only the scratch may differ (45_mpdu_framer.md R172 to R175). -/
theorem rxStore_sameEffects (hdr : HeaderDecoded) (c : Scheme) (cdc : FrameCodec) (x : Context) (payload : Bytes) :
    SameEffects (rxStore s hdr c cdc x payload) (rxStore s' hdr c cdc x payload) := by
  simp only [rxStore, h.params, h.reasm]
  split
  · exact h.finish ((h.scratchAfterStore_sameInputs _ _ _ _ _).setReasm _) _ _ _
  · exact h.finish ((h.scratchAfterStore_sameInputs _ _ _ _ _).setReasm _) _ _ _

/-! ### Every command is a function of its inputs -/

/-- The refusals of 45_mpdu_framer.md R170 in their order, then the frames. -/
theorem exec_txPacket_sameOutcomes (ec : BitVec 6) (rf : BitVec 3) (df1 : Bool) :
    SameOutcomes (exec (.txPacket ec rf df1) s) (exec (.txPacket ec rf df1) s') := by
  apply h.runCommand_sameOutcomes
  simp only [h.params, h.input]
  split
  · exact h.raise _
  split
  · exact h.raise _
  split_ifs
  · exact h.raise _
  · exact h.raise _
  · exact h.reply _ _ _

/-- The refusals of 45_mpdu_framer.md R172 in their order, then the accepted fragment. -/
theorem exec_rxFrame_sameOutcomes (df1 : Bool) : SameOutcomes (exec (.rxFrame df1) s) (exec (.rxFrame df1) s') := by
  apply h.runCommand_sameOutcomes
  simp only [h.params, h.input, h.openContext_eq]
  split
  · exact h.raiseWith _ _ _
  split
  · exact h.raiseWith _ _ _
  split
  · exact h.raiseWith _ _ _
  split
  · exact h.raiseWith _ _ _
  split
  · exact h.raiseWith _ _ _
  split
  · exact h.raiseWith _ _ _
  · exact h.rxStore_sameEffects _ _ _ _ _

/-- The commands by the shape of their bodies: an answer, an answer on either side of a test, an answer after one refusal
or several, and CONV_INIT, which writes `CODEC` before either. -/
theorem exec_sameOutcomes (i : Instr) : SameOutcomes (exec i s) (exec i s') := by
  cases i with
  | golayEnc | golayDec | golay3Enc | hdrEnc ec rf df1 =>
    apply h.runCommand_sameOutcomes
    simp only [opaGolayData, opaGolayWord, opaCfi, opaUpl, opaUpfi, h.opa, h.params]
    exact h.reply _ _ _
  | golay3Dec | schemeValid | schemeRate ec | schemeCwBits ec | schemeMsgBits ec | hdrDec df1 | frameCount ec =>
    apply h.runCommand_sameOutcomes
    simp only [opaPacketLength, h.opaSchemeCode_eq, h.opa, h.input, h.params]
    split
    · exact h.raiseWith _ _ _
    · exact h.reply _ _ _
  | convEnc =>
    apply h.runCommand_sameOutcomes
    simp only [h.input, h.codec, h.params]
    split
    · exact h.reply _ _ _
    · exact h.reply _ _ _
  | vitDec =>
    apply h.runCommand_sameOutcomes
    simp only [h.input, h.codec, h.params]
    split
    · exact h.reply _ _ _
    · exact h.finish h.leaveScratch _ _ _
  | rxDrop ec =>
    apply h.runCommand_sameOutcomes
    simp only [opaDropUpl, h.opa, h.reasm]
    split
    · exact h.finish (h.setReasm _) _ _ _
    · exact h.reply _ _ _
  | rxFlush =>
    apply h.runCommand_sameOutcomes
    simp only [h.reasm]
    exact h.finish (h.setReasm []) _ _ _
  | schemeNumFrags ec =>
    apply h.runCommand_sameOutcomes
    simp only [h.opaPayload_eq, h.params]
    split
    · exact h.raise _
    split
    · exact h.raise _
    · exact h.reply _ _ _
  | ppduRepack st dt =>
    apply h.runCommand_sameOutcomes
    simp only [h.opaBitLength_eq, h.input]
    split_ifs
    · exact h.raise _
    · exact h.raise _
    · exact h.raise _
    · exact h.reply _ _ _
  | convInit ec =>
    apply h.runCommand_sameOutcomes
    simp only [h.params]
    split
    · exact (h.setCodec _).raise _
    · exact h.finish (h.setCodec _) _ _ _
    · exact (h.setCodec _).raise _
  | txPacket ec rf df1 => exact h.exec_txPacket_sameOutcomes ec rf df1
  | rxFrame df1 => exact h.exec_rxFrame_sameOutcomes df1

/-- The same word is decoded: to one command, or to a rejection, which raises BadFormat (30_encoding.md R63, R67). -/
theorem step_sameOutcomes (hp : legalParams s.params = true) : SameOutcomes (step s) (step s') := by
  have hp' : legalParams s'.params = true := h.params ▸ hp
  cases hd : decode s.cmd with
  | command i =>
    rw [step_of_command hp hd, step_of_command hp' (h.cmd ▸ hd)]
    exact h.exec_sameOutcomes i
  | rejected r =>
    rw [step_of_rejected hp hd, step_of_rejected hp' (h.cmd ▸ hd)]
    exact ⟨_, _, rfl, rfl, h.raise .badFormat⟩

end SameInputs

theorem legal_of_step {s t : State} (h : step s = .next t) : legalParams s.params = true := by
  by_contra hp
  rw [step_of_illegal (Bool.eq_false_of_not_eq_true hp)] at h
  cases h

/-- Settles O15: an instance that steps is legal, and two states with the same inputs step to the same outcome. -/
theorem resultsAreAFunctionOfTheInputs : Obligations.ResultsAreAFunctionOfTheInputs := by
  intro s s' t hcmd hopa hinput hcodec hreasm hparams hstep
  have hinputs : SameInputs s s' := ⟨hcmd, hopa, hinput, hcodec, hreasm, hparams⟩
  obtain ⟨u, t', hu, ht', hsame⟩ := hinputs.step_sameOutcomes (legal_of_step hstep)
  obtain rfl := Host.Outcome.next.inj (hu.symm.trans hstep)
  exact ⟨t', ht', hsame.status, hsame.res0, hsame.res1, hsame.out, hsame.codec, hsame.reasm⟩

end Sys2Proof.Machine
